-- ==== Sys2Proof/Word.lean ====
section
/-! DEFINITION. The word types of the engine: bytes, the 32-bit interface words and the 128-cell register image. -/

namespace Sys2Proof

/-- A byte, bit 0 least significant (R6). -/
abbrev Byte := BitVec 8

/-- A command, response or status word (R70, R76, R77). -/
abbrev Word := BitVec 32

/-- A register of 128 one-bit cells in the packed view of R9: bit `i` is cell `i`. -/
abbrev Cells := BitVec 128

/-- A 16-byte buffer or key, byte 0 first (R22, R27, R28). -/
abbrev Block := Vector Byte 16

end Sys2Proof
end

