-- ==== Sys2Proof/Config.lean ====
section
/-! DEFINITION. What the spec fixes for every engine (R5) and the one parameter it leaves open. -/

namespace Sys2Proof

/-- The two byte orders a byte-wide bus may carry a word in (R54). -/
inductive ByteOrder where
  | little
  | big
deriving DecidableEq, Repr, Inhabited

/-- BUS_BYTE_ORDER (R5, R54): the open parameter of the spec. It has no body, so nothing can be
proved about its value. Log entry 5. -/
opaque Config.busByteOrder : ByteOrder

/-- WARMUP_STEPS (R5, R129). -/
def Config.warmupSteps : Nat := 256

/-- Keystream bits packed into one byte (R5, R151). -/
def Config.bitsPerByte : Nat := 8

/-- Capacity in bytes of KEYBUF and IVBUF (R5, R27, R28). -/
def Config.bufferCap : Nat := 16

end Sys2Proof
end

