-- ==== Sys2Proof/Machine/Datapath.lean ====
section
/-! DEFINITION. The datapath: the step function (40_step_function.md), the warm-up fold (R128), the loader
(R125, R126), and the byte packer's bit placement (R151). None of it can fail (R108). -/

namespace Sys2Proof.Machine

/-- The two shift registers a step reads and writes (R100). -/
structure Regs where
  nfsr : Cells
  lfsr : Cells
deriving DecidableEq, Repr

/-- Cell `i` of a register in the packed view (R9). -/
def cell (c : Cells) (i : Nat) : Bool := c.getLsbD i

/-- The output (filter) function (R101). -/
def outbit (r : Regs) : Bool :=
  let n := cell r.nfsr
  let l := cell r.lfsr
  n 2 ^^ n 15 ^^ n 36 ^^ n 45 ^^ n 64 ^^ n 73 ^^ n 89 ^^ l 93
    ^^ (n 12 && l 8) ^^ (l 13 && l 20) ^^ (n 95 && l 42) ^^ (l 60 && l 79)
    ^^ (n 12 && n 95 && l 95)

/-- The NFSR feedback function, with its linear driving term from LFSR cell 0 (R102). -/
def nfsrBit (r : Regs) : Bool :=
  let n := cell r.nfsr
  let l := cell r.lfsr
  l 0 ^^ n 0 ^^ n 26 ^^ n 56 ^^ n 91 ^^ n 96
    ^^ (n 3 && n 67) ^^ (n 11 && n 13) ^^ (n 17 && n 18) ^^ (n 27 && n 59)
    ^^ (n 40 && n 48) ^^ (n 61 && n 65) ^^ (n 68 && n 84)

/-- The LFSR feedback function, purely linear (R103). -/
def lfsrBit (r : Regs) : Bool :=
  let l := cell r.lfsr
  l 0 ^^ l 7 ^^ l 38 ^^ l 70 ^^ l 81 ^^ l 96

/-- A register whose only possibly set cell is cell 127. -/
def topCell (b : Bool) : Cells := (BitVec.ofBool b).setWidth 128 <<< 127

/-- Shift by one cell toward cell 0, the new bit entering cell 127 (R104, R6, C8). -/
def shiftIn (c : Cells) (b : Bool) : Cells := (c >>> 1) ||| topCell b

/-- `step()` (R100): the output bit and both registers shifted, every tap read before the shift
(R105). -/
def cipherStep (r : Regs) : Bool × Regs :=
  (outbit r, { nfsr := shiftIn r.nfsr (nfsrBit r), lfsr := shiftIn r.lfsr (lfsrBit r) })

/-- Exclusive-or of a bit into cell 127 (R128). -/
def foldTop (c : Cells) (b : Bool) : Cells := c ^^^ topCell b

/-- One warm-up step: a step whose output bit is folded into cell 127 of both registers and discarded
(R128). -/
def warmStep (r : Regs) : Regs :=
  let o := cipherStep r
  { nfsr := foldTop o.2.nfsr o.1, lfsr := foldTop o.2.lfsr o.1 }

/-- A keystream bit placed at position `k` of the byte being packed (R151, R52). -/
def packBit (acc : Byte) (k : BitVec 4) (b : Bool) : Byte :=
  acc ||| ((BitVec.ofBool b).setWidth 8 <<< k.toNat)

/-! ### The loader -/

/-- Bytes laid into cells, byte `i` bit `j` at cell `8 * i + j` (R51), the first byte lowest (R53). -/
def cellsOfBytes : List Byte → Cells
  | [] => 0
  | b :: bs => (cellsOfBytes bs <<< 8) ||| b.setWidth 128

/-- The NFSR after the loader: all sixteen key bytes (R125). -/
def loadNfsr (key : Block) : Cells := cellsOfBytes key.toList

/-- The LFSR after the loader: `m` IV bytes, then ones up to cell 127 (R126). -/
def loadLfsr (m : Nat) (iv : Block) : Cells :=
  cellsOfBytes (iv.toList.take m ++ List.replicate (16 - m) 0xFF)

/-! ### Many steps at once, for the command level (R130, R152) -/

/-- The registers after `k` warm-up steps. -/
def warmSteps : Nat → Regs → Regs
  | 0, r => r
  | k + 1, r => warmSteps k (warmStep r)

/-- The registers after `k` steps with no fold. -/
def cipherSteps : Nat → Regs → Regs
  | 0, r => r
  | k + 1, r => cipherSteps k (cipherStep r).2

/-- The next `k` keystream bits, in generation order (R150). -/
def keystreamBits : Nat → Regs → List Bool
  | 0, _ => []
  | k + 1, r => (cipherStep r).1 :: keystreamBits k (cipherStep r).2

/-- Bits packed into a byte, the first at bit 0 (R52). -/
def byteOfBits : List Bool → Byte
  | [] => 0
  | b :: bs => (byteOfBits bs <<< 1) ||| (BitVec.ofBool b).setWidth 8

/-- `ks_byte()` (R152): the next eight keystream bits as a byte. -/
def ksByteOf (r : Regs) : Byte := byteOfBits (keystreamBits Config.bitsPerByte r)

end Sys2Proof.Machine
end

