-- ==== Sys2Proof/Machine/State.lean ====
section
/-! DEFINITION. The state of the engine (10_state.md), its reset value (R35), and the reasons a step can stop. -/

namespace Sys2Proof.Machine

/-- PHASE, the lifecycle state (R25). Values 5 to 7 are never held (I9). -/
inductive Phase where
  /-- No successful CONSTRUCT since reset. -/
  | empty
  /-- Key stored, registers zero-filled, not yet initialized. -/
  | constructed
  /-- Loader done, warm-up in progress, engine busy. -/
  | initializing
  /-- Warm-up completed, keystream commands allowed. -/
  | keystreaming
  /-- The last INITIALIZE failed with INVALID_IV_LENGTH. -/
  | failed
deriving DecidableEq, Repr

/-- PEND, the operation the sequencer has in progress (R30). Value 3 is never held (I9). -/
inductive Pend where
  /-- NONE: the engine is idle. -/
  | none
  /-- WARMUP: an INITIALIZE is warming up. -/
  | warmup
  /-- BYTE: a byte command is in progress. -/
  | byte
deriving DecidableEq, Repr

/-- What the host does at the engine's port during one engine step (R120, R200, R203). Log entry 1. -/
inductive HostInput where
  /-- Nothing is presented during one engine step. -/
  | quiet
  /-- A command word is presented, and stays presented until the engine accepts it. -/
  | command (w : Word)
  /-- The reset input is asserted. -/
  | reset
deriving DecidableEq, Repr

/-- The state of one engine. The first seventeen fields are the spec's (10_state.md, in its order); the
last two are the model's own record of the host's side of the port. -/
structure State where
  /-- NFSR, packed (R20, R9). -/
  nfsr : Cells
  /-- LFSR, packed (R21, R9). -/
  lfsr : Cells
  /-- KEY (R22). -/
  key : Block
  /-- KEYSIZE, in bits (R23). -/
  keySize : BitVec 8
  /-- IVSIZE, in bits (R24). -/
  ivSize : BitVec 8
  /-- PHASE (R25). -/
  phase : Phase
  /-- KEYBUF (R27). -/
  keyBuf : Block
  /-- KEY_COUNT (R27). -/
  keyCount : BitVec 8
  /-- IVBUF (R28). -/
  ivBuf : Block
  /-- IV_COUNT (R28). -/
  ivCount : BitVec 8
  /-- WARM_COUNT (R29). -/
  warmCount : BitVec 9
  /-- PEND (R30). -/
  pend : Pend
  /-- PEND_OPC (R30). -/
  pendOpc : BitVec 4
  /-- PEND_DATA (R30). -/
  pendData : Byte
  /-- ACC (R30). -/
  acc : Byte
  /-- BIT_COUNT (R30). -/
  bitCount : BitVec 4
  /-- LAST_RSP (R32). -/
  lastRsp : Word
  /-- The model's own field: what the host does at the port, in order. Log entry 1. -/
  hostIn : List HostInput
  /-- The model's own field: the response words delivered to the host, oldest first. Log entry 2. -/
  hostOut : List Word
deriving DecidableEq, Repr

/-- The state after reset (R35, R200). The two port fields start empty (log entries 1 and 2). -/
def State.reset : State where
  nfsr := 0
  lfsr := 0
  key := Vector.replicate 16 0
  keySize := 0
  ivSize := 0
  phase := .empty
  keyBuf := Vector.replicate 16 0
  keyCount := 0
  ivBuf := Vector.replicate 16 0
  ivCount := 0
  warmCount := 0
  pend := .none
  pendOpc := 0
  pendData := 0
  acc := 0
  bitCount := 0
  lastRsp := 0
  hostIn := []
  hostOut := []

/-- The engine has no faults: every failure is a result code in a normal response, and no result is a
trap (R184, R186, R187). No one can raise a fault; safe. -/
inductive Fault where
deriving DecidableEq, Repr

/-- Why an access or a command has no meaning in the model. No step of the engine refuses. -/
inductive Refusal where
  /-- Raised by an arm of `exec` whose instruction has no meaning yet; there is no such arm. Safe. -/
  | notModelled (mnemonic : String)
  /-- Raised by the platform's `presentBytes` when a bus access does not carry one whole 32-bit word: R55
  and I11 say a model refuses such an access rather than guess a meaning. Safe. -/
  | partialWordAccess
deriving DecidableEq, Repr

end Sys2Proof.Machine
end

