-- ==== Sys2Proof/Machine/Flags.lean ====
section
/-! DEFINITION. The engine has no status flags (R34): the outcome of a command is its result code and the
PHASE it leaves. This file holds those codes and the response and status words made of them. -/

namespace Sys2Proof.Machine

/-- The result codes a response can carry (R180). Codes 7 to 15 are never produced (I9). -/
inductive Result where
  | ok
  | invalidKeyLength
  | invalidIvLength
  | unsupportedConfiguration
  | notInitialized
  | notConstructed
  | illegalCommand
deriving DecidableEq, Repr

/-- RESULT as a number (R180). -/
def Result.code : Result → BitVec 4
  | .ok => 0
  | .invalidKeyLength => 1
  | .invalidIvLength => 2
  | .unsupportedConfiguration => 3
  | .notInitialized => 4
  | .notConstructed => 5
  | .illegalCommand => 6

/-- The result a code names, if any (R180). -/
def Result.ofCode (c : BitVec 4) : Option Result :=
  match c.toNat with
  | 0 => some .ok
  | 1 => some .invalidKeyLength
  | 2 => some .invalidIvLength
  | 3 => some .unsupportedConfiguration
  | 4 => some .notInitialized
  | 5 => some .notConstructed
  | 6 => some .illegalCommand
  | _ => none

/-- PHASE as a number (R25). -/
def Phase.code : Phase → BitVec 3
  | .empty => 0
  | .constructed => 1
  | .initializing => 2
  | .keystreaming => 3
  | .failed => 4

/-- PEND as a number (R30). -/
def Pend.code : Pend → BitVec 2
  | .none => 0
  | .warmup => 1
  | .byte => 2

/-- The response word (R76): OPC echo, PHASE, RESULT and DOUT. -/
def responseWord (opc : BitVec 4) (p : Phase) (r : Result) (dout : Byte) : Word :=
  0#12 ++ opc ++ 0#1 ++ p.code ++ r.code ++ dout

/-- DOUT of a response word (R76). -/
def rspDout (w : Word) : Byte := w.extractLsb' 0 8

/-- RESULT of a response word (R76). -/
def rspResult (w : Word) : BitVec 4 := w.extractLsb' 8 4

/-- The engine is busy exactly when PEND is not NONE (R31). -/
def State.busy (s : State) : Bool := s.pend != .none

/-- The status word (R77), readable at any time without side effect (R57). -/
def statusWord (s : State) : Word :=
  0#8 ++ s.ivCount ++ s.keyCount ++ 0#4 ++ BitVec.ofBool s.busy ++ s.phase.code

end Sys2Proof.Machine
end

