-- ==== Sys2Proof/Machine/Operands.lean ====
section
/-! DEFINITION. What the commands make of their operands: the transfer buffers a pushed byte goes to
(R122, R123) and the checks of CONSTRUCT and INITIALIZE on sizes and counts (R124, R127). -/

namespace Sys2Proof.Machine

/-- `sat_inc` (R7): an 8-bit counter plus one, staying at 255. -/
def satInc (c : BitVec 8) : BitVec 8 := if c = 255 then 255 else c + 1

/-- A pushed byte goes to the buffer at the count, when the count is below 16 (R122, R123). -/
def pushByte (buf : Block) (count : BitVec 8) (d : Byte) : Block :=
  if count.toNat < Config.bufferCap then buf.setIfInBounds count.toNat d else buf

/-- A cleared buffer (R27, R28). -/
def zeroBlock : Block := Vector.replicate 16 0

/-- CONSTRUCT's sizes in bits are a supported configuration: key 128, IV 96 or 128 (R124, C4). -/
def supported (keySize ivSize : BitVec 11) : Bool :=
  keySize == 128 && (ivSize == 96 || ivSize == 128)

/-- The number of IV bytes INITIALIZE needs, IVSIZE / 8 (R127). -/
def ivBytes (ivSize : BitVec 8) : Nat := ivSize.toNat / 8

/-- IV_COUNT is the length IVSIZE asks for (R127). -/
def ivLengthOk (s : State) : Bool := s.ivCount.toNat == ivBytes s.ivSize

end Sys2Proof.Machine
end

