-- ==== Sys2Proof/Machine/Ops.lean ====
section
/-! DEFINITION. The shared operations of the commands and the sequencer: the two registers as one, the
completion of a command, the hold of a command while busy, and the starts of the two sequences. The
engine takes no exception (R184, R187): `respond` is how every command ends. -/

namespace Sys2Proof.Machine

/-- NFSR and LFSR as the pair a step works on. -/
def State.regs (s : State) : Regs := { nfsr := s.nfsr, lfsr := s.lfsr }

/-- Both registers written in one transition (R105). -/
def State.setRegs (s : State) (r : Regs) : State := { s with nfsr := r.nfsr, lfsr := r.lfsr }

/-- `respond(result, dout)` (R181): the response word, with PHASE as the command has left it, goes to
LAST_RSP and to the host. -/
def respond (opc : BitVec 4) (r : Result) (dout : Byte) (s : State) : State :=
  { s with
    lastRsp := responseWord opc s.phase r dout
    hostOut := s.hostOut ++ [responseWord opc s.phase r dout] }

/-- A command's effect happens only in an idle engine. In a busy one the command is not accepted and
nothing changes (R120, R203). Log entry 4. -/
def held (s t : State) : Host.Outcome State Fault Refusal := .next (if s.busy then s else t)

/-- A byte pushed into KEYBUF and counted (R122). -/
def pushKey (d : Byte) (s : State) : State :=
  { s with keyBuf := pushByte s.keyBuf s.keyCount d, keyCount := satInc s.keyCount }

/-- A byte pushed into IVBUF and counted (R123). -/
def pushIv (d : Byte) (s : State) : State :=
  { s with ivBuf := pushByte s.ivBuf s.ivCount d, ivCount := satInc s.ivCount }

/-- KEYBUF and KEY_COUNT cleared (R27, R124). -/
def clearKeyBuf (s : State) : State := { s with keyBuf := zeroBlock, keyCount := 0 }

/-- IVBUF and IV_COUNT cleared (R28, R127). -/
def clearIvBuf (s : State) : State := { s with ivBuf := zeroBlock, ivCount := 0 }

/-- The loader (R125, R126): both registers from KEY and the IV bytes captured by INITIALIZE. -/
def loadRegs (s : State) : State :=
  s.setRegs { nfsr := loadNfsr s.key, lfsr := loadLfsr (ivBytes s.ivSize) s.ivBuf }

/-- The warm-up begins (R127): the engine is busy until R129. -/
def startWarmup (s : State) : State :=
  { s with warmCount := 0, pend := .warmup, phase := .initializing }

/-- A byte command begins (R153, R154, R155): the engine is busy for eight engine steps. -/
def startByte (opc : BitVec 4) (d : Byte) (s : State) : State :=
  { s with pend := .byte, pendOpc := opc, pendData := d, acc := 0, bitCount := 0 }

/-- The byte commands share one check and one start (R153, R156): NOT_INITIALIZED outside
KEYSTREAMING. -/
def byteCommand (opc : BitVec 4) (d : Byte) (s : State) : State :=
  if s.phase = .keystreaming then startByte opc d s else respond opc .notInitialized 0 s

end Sys2Proof.Machine
end

