-- ==== Sys2Proof/Machine/Keystream.lean ====
section
/-! DEFINITION. The byte commands: KS_BYTE, ENCRYPT_BYTE, DECRYPT_BYTE (42_keystream_commands.md). Each
meaning is what the command's acceptance does; `Sequencer.lean` holds the eight steps that follow. -/

namespace Sys2Proof.Machine

/-- KS_BYTE (R153). -/
def execKsByte (s : State) : Host.Outcome State Fault Refusal :=
  held s (byteCommand 0x5 0 s)

/-- ENCRYPT_BYTE with plaintext byte `p` (R154). -/
def execEncryptByte (p : Byte) (s : State) : Host.Outcome State Fault Refusal :=
  held s (byteCommand 0x6 p s)

/-- DECRYPT_BYTE with ciphertext byte `c` (R155). -/
def execDecryptByte (c : Byte) (s : State) : Host.Outcome State Fault Refusal :=
  held s (byteCommand 0x7 c s)

end Sys2Proof.Machine
end

