-- ==== Sys2Proof/Syntax.lean ====
section
/-! DEFINITION. The eight commands of the opcode table (R71). -/

namespace Sys2Proof

/-- One constructor per row of spec/opcode_table.json. CONSTRUCT carries its sizes in bits, as the
source's `construct` takes them: eight times the size fields KSZ8 and IVSZ8, an 11-bit number
(R73). -/
inductive Instr where
  /-- NOP (R121). -/
  | nop
  /-- KEY_PUSH with its byte DATA8 (R122). -/
  | keyPush (d : Byte)
  /-- IV_PUSH with its byte DATA8 (R123). -/
  | ivPush (d : Byte)
  /-- CONSTRUCT with the key size and the IV size in bits (R124). -/
  | construct (keySize ivSize : BitVec 11)
  /-- INITIALIZE (R127). -/
  | init
  /-- KS_BYTE (R153). -/
  | ksByte
  /-- ENCRYPT_BYTE with the plaintext byte (R154). -/
  | encryptByte (p : Byte)
  /-- DECRYPT_BYTE with the ciphertext byte (R155). -/
  | decryptByte (c : Byte)
deriving DecidableEq, Repr

end Sys2Proof
end

