-- ==== Sys2Proof/WellFormed.lean ====
section
/-! DEFINITION. Which commands have a word: sizes that are not multiples of 8 cannot be encoded (R73). -/

namespace Sys2Proof

/-- A size in bits is encodable when it is a multiple of 8 (R73, I13); being an 11-bit number it is
then at most 2040. -/
abbrev SizeEncodable (bits : BitVec 11) : Prop := bits.toNat % 8 = 0

/-- A command is well formed when it has a command word. Only CONSTRUCT's two sizes are checked: every
byte operand has a word (R72). -/
abbrev WellFormed (i : Instr) : Prop :=
  match i with
  | .nop => True
  | .keyPush _ => True
  | .ivPush _ => True
  | .construct ks ivs => SizeEncodable ks ∧ SizeEncodable ivs
  | .init => True
  | .ksByte => True
  | .encryptByte _ => True
  | .decryptByte _ => True

end Sys2Proof
end

