-- ==== Sys2Proof/Decode.lean ====
section
/-! DEFINITION. Command words: their fields (R70), the pattern table (R74), the decoder, total on every
word and rejecting by name (R75), and the encoder. -/

namespace Sys2Proof

/-! ### Fields of a command word (R70) -/

/-- OPC, bits 3 to 0. -/
def opcField (w : Word) : BitVec 4 := w.extractLsb' 0 4

/-- RSVD, bits 7 to 4. -/
def rsvdField (w : Word) : BitVec 4 := w.extractLsb' 4 4

/-- DATA8, bits 15 to 8, an unsigned byte (R72). -/
def data8 (w : Word) : Byte := w.extractLsb' 8 8

/-- KSZ8, bits 23 to 16. -/
def ksz8 (w : Word) : BitVec 8 := w.extractLsb' 16 8

/-- IVSZ8, bits 31 to 24. -/
def ivsz8 (w : Word) : BitVec 8 := w.extractLsb' 24 8

/-- A size field, in bytes, scaled to bits: eight times it, in 11 bits (R73). -/
def sizeBits (z : BitVec 8) : BitVec 11 := z.setWidth 11 <<< 3

/-- A size in bits as its field: the size divided by 8 (R81). -/
def sizeField (bits : BitVec 11) : BitVec 8 := (bits >>> 3).setWidth 8

/-! ### The pattern table (R74) -/

/-- A row of R74: a word `w` matches it when `w &&& mask = value`. -/
structure Pattern where
  mnemonic : String
  value : Word
  mask : Word
deriving DecidableEq, Repr

/-- The word matches the row under its mask (R74). -/
abbrev Pattern.Matches (p : Pattern) (w : Word) : Prop := w &&& p.mask = p.value

/-- The eight rows of R74, in its order. -/
def patterns : List Pattern :=
  [ ⟨"NOP", 0x00000000#32, 0xFFFFFFFF#32⟩,
    ⟨"KEY_PUSH", 0x00000001#32, 0xFFFF00FF#32⟩,
    ⟨"IV_PUSH", 0x00000002#32, 0xFFFF00FF#32⟩,
    ⟨"CONSTRUCT", 0x00000003#32, 0x0000FFFF#32⟩,
    ⟨"INITIALIZE", 0x00000004#32, 0xFFFFFFFF#32⟩,
    ⟨"KS_BYTE", 0x00000005#32, 0xFFFFFFFF#32⟩,
    ⟨"ENCRYPT_BYTE", 0x00000006#32, 0xFFFF00FF#32⟩,
    ⟨"DECRYPT_BYTE", 0x00000007#32, 0xFFFF00FF#32⟩ ]

/-! ### The decoder -/

/-- Why a word is illegal (R75). The engine answers every one of them alike, with ILLEGAL_COMMAND. -/
inductive Illegal where
  /-- OPC is 0x8 to 0xF. -/
  | reservedOpcode
  /-- RSVD is not 0. -/
  | reservedBits
  /-- DATA8 is not 0 in a command that has no byte operand. -/
  | dataNotZero
  /-- KSZ8 or IVSZ8 is not 0 in a command other than CONSTRUCT. -/
  | sizeNotZero
deriving DecidableEq, Repr

/-- A command whose fields RSVD, DATA8, KSZ8 and IVSZ8 must all be 0. -/
def decodePlain (w : Word) (i : Instr) : Except Illegal Instr :=
  if data8 w ≠ 0 then .error .dataNotZero
  else if ksz8 w ≠ 0 ∨ ivsz8 w ≠ 0 then .error .sizeNotZero
  else .ok i

/-- A command with the byte operand DATA8; the size fields must be 0. -/
def decodeByte (w : Word) (i : Byte → Instr) : Except Illegal Instr :=
  if ksz8 w ≠ 0 ∨ ivsz8 w ≠ 0 then .error .sizeNotZero
  else .ok (i (data8 w))

/-- CONSTRUCT, with its two size operands; DATA8 must be 0. -/
def decodeConstruct (w : Word) : Except Illegal Instr :=
  if data8 w ≠ 0 then .error .dataNotZero
  else .ok (.construct (sizeBits (ksz8 w)) (sizeBits (ivsz8 w)))

/-- The decoder (R71, R74, R75), total on every word. -/
def decode (w : Word) : Except Illegal Instr :=
  if rsvdField w ≠ 0 then .error .reservedBits
  else match (opcField w).toNat with
    | 0 => decodePlain w .nop
    | 1 => decodeByte w .keyPush
    | 2 => decodeByte w .ivPush
    | 3 => decodeConstruct w
    | 4 => decodePlain w .init
    | 5 => decodePlain w .ksByte
    | 6 => decodeByte w .encryptByte
    | 7 => decodeByte w .decryptByte
    | _ => .error .reservedOpcode

/-- The command word of an instruction numbered as spec/opcode_table.json numbers its bits: a command
is one 32-bit word (R70), so the bits above `nbits` are 0. -/
def tableWord (nbits w : Nat) : Word := BitVec.ofNat 32 (w % 2 ^ nbits)

/-- What the decoder reads from a table word. -/
def decodeTableWord (nbits w : Nat) : Option Instr :=
  match decode (tableWord nbits w) with
  | .ok i => some i
  | .error _ => none

/-! ### The encoder -/

/-- The operation code of a command (R71). -/
def opcode : Instr → BitVec 4
  | .nop => 0x0
  | .keyPush _ => 0x1
  | .ivPush _ => 0x2
  | .construct _ _ => 0x3
  | .init => 0x4
  | .ksByte => 0x5
  | .encryptByte _ => 0x6
  | .decryptByte _ => 0x7

/-- A command word from its fields (R70): IVSZ8, KSZ8, DATA8, RSVD = 0, OPC. -/
def assembleWord (opc : BitVec 4) (d ks ivs : BitVec 8) : Word := ivs ++ ks ++ d ++ 0#4 ++ opc

/-- The command word of a command (R74, R81). -/
def encode (i : Instr) : Word :=
  match i with
  | .nop => assembleWord (opcode i) 0 0 0
  | .keyPush d => assembleWord (opcode i) d 0 0
  | .ivPush d => assembleWord (opcode i) d 0 0
  | .construct ks ivs => assembleWord (opcode i) 0 (sizeField ks) (sizeField ivs)
  | .init => assembleWord (opcode i) 0 0 0
  | .ksByte => assembleWord (opcode i) 0 0 0
  | .encryptByte p => assembleWord (opcode i) p 0 0
  | .decryptByte c => assembleWord (opcode i) c 0 0

end Sys2Proof
end

