-- ==== Sys2Proof/Machine/Setup.lean ====
section
/-! DEFINITION. The setup commands: NOP, KEY_PUSH, IV_PUSH, CONSTRUCT, INITIALIZE (41_setup_commands.md), and
the answer to an illegal word (R75). Each command's meaning is what its acceptance does (R120). -/

namespace Sys2Proof.Machine

/-- NOP (R121). -/
def execNop (s : State) : Host.Outcome State Fault Refusal :=
  held s (respond 0x0 .ok 0 s)

/-- KEY_PUSH (R122). -/
def execKeyPush (d : Byte) (s : State) : Host.Outcome State Fault Refusal :=
  held s (respond 0x1 .ok 0 (pushKey d s))

/-- IV_PUSH (R123). -/
def execIvPush (d : Byte) (s : State) : Host.Outcome State Fault Refusal :=
  held s (respond 0x2 .ok 0 (pushIv d s))

/-- The CipherState a successful CONSTRUCT makes (R124): the key as pushed, the sizes, both registers
zero-filled. IVSIZE is 96 or 128 here and fits its 8 bits. -/
def constructed (ivSize : BitVec 11) (s : State) : State :=
  { s with
    key := s.keyBuf
    keySize := 128
    ivSize := ivSize.setWidth 8
    nfsr := 0
    lfsr := 0
    phase := .constructed }

/-- What CONSTRUCT does when accepted, its checks in the order of R124 and R183. -/
def constructEffect (keySize ivSize : BitVec 11) (s : State) : State :=
  if supported keySize ivSize = false then
    respond 0x3 .unsupportedConfiguration 0 (clearKeyBuf s)
  else if s.keyCount.toNat ≠ 16 then
    respond 0x3 .invalidKeyLength 0 (clearKeyBuf s)
  else
    respond 0x3 .ok 0 (clearKeyBuf (constructed ivSize s))

/-- CONSTRUCT (R124). -/
def execConstruct (keySize ivSize : BitVec 11) (s : State) : Host.Outcome State Fault Refusal :=
  held s (constructEffect keySize ivSize s)

/-- What an IV of the wrong length leaves: the IV buffer cleared and PHASE FAILED, no register written
(R127, C1). -/
def failInit (s : State) : State := { s with ivBuf := zeroBlock, ivCount := 0, phase := .failed }

/-- What INITIALIZE does when accepted, its checks in the order of R127 and R183. The IV is checked
before any register is written (C1). -/
def initEffect (s : State) : State :=
  if s.phase = .empty then
    respond 0x4 .notConstructed 0 (clearIvBuf s)
  else if ivLengthOk s = false then
    respond 0x4 .invalidIvLength 0 (failInit s)
  else
    startWarmup (clearIvBuf (loadRegs s))

/-- INITIALIZE (R127). On success there is no response yet: the engine is busy until R129. -/
def execInit (s : State) : Host.Outcome State Fault Refusal :=
  held s (initEffect s)

/-- An illegal word (R75): ILLEGAL_COMMAND, the OPC echo being its bits 3 to 0. -/
def illegalEffect (w : Word) (s : State) : State :=
  respond (opcField w) .illegalCommand 0 s

end Sys2Proof.Machine
end

