-- ==== Sys2Proof/Machine/Dispatch.lean ====
section
/-! DEFINITION. One arm per command of the opcode table (R120). -/

namespace Sys2Proof.Machine

def exec (i : Instr) (s : State) : Host.Outcome State Fault Refusal :=
  match i with
  | .nop => Sys2Proof.Machine.execNop s
  | .keyPush d => Sys2Proof.Machine.execKeyPush d s
  | .ivPush d => Sys2Proof.Machine.execIvPush d s
  | .construct ks ivs => Sys2Proof.Machine.execConstruct ks ivs s
  | .init => Sys2Proof.Machine.execInit s
  | .ksByte => Sys2Proof.Machine.execKsByte s
  | .encryptByte p => Sys2Proof.Machine.execEncryptByte p s
  | .decryptByte c => Sys2Proof.Machine.execDecryptByte c s

end Sys2Proof.Machine
end

