-- ==== Sys2Proof/Machine/Sequencer.lean ====
section
/-! DEFINITION. The internal sequencer: what one engine step does while a warm-up or a byte command is in
progress (R128, R129, R151). -/

namespace Sys2Proof.Machine

/-- Warm-up completion (R129): the INITIALIZE, whose opcode is 4, gets its OK response. -/
def warmupComplete (s : State) : State :=
  respond 0x4 .ok 0 { s with pend := .none, phase := .keystreaming }

/-- What every warm-up engine step does: the folded step, and WARM_COUNT counted (R128). -/
def warmupAdvance (s : State) : State :=
  { s with
    nfsr := (warmStep s.regs).nfsr
    lfsr := (warmStep s.regs).lfsr
    warmCount := s.warmCount + 1 }

/-- One warm-up engine step (R128); the one that reaches 256 completes the warm-up (R129). -/
def warmupEngineStep (s : State) : State :=
  if (warmupAdvance s).warmCount.toNat = 256 then warmupComplete (warmupAdvance s)
  else warmupAdvance s

/-- The end of a byte command (R151): DOUT is ACC xor PEND_DATA. -/
def byteComplete (s : State) : State :=
  respond s.pendOpc .ok (s.acc ^^^ s.pendData) { s with pend := .none }

/-- What every byte engine step does: a step with no fold, its output bit packed at BIT_COUNT
(R151). -/
def byteAdvance (s : State) : State :=
  { s with
    nfsr := (cipherStep s.regs).2.nfsr
    lfsr := (cipherStep s.regs).2.lfsr
    acc := packBit s.acc s.bitCount (cipherStep s.regs).1
    bitCount := s.bitCount + 1 }

/-- One byte engine step (R151); the eighth completes the command. -/
def byteEngineStep (s : State) : State :=
  if (byteAdvance s).bitCount.toNat = 8 then byteComplete (byteAdvance s) else byteAdvance s

/-- One engine step of the sequencer. An idle engine keeps all its state (R193). -/
def engineStep (s : State) : State :=
  match s.pend with
  | .none => s
  | .warmup => warmupEngineStep s
  | .byte => byteEngineStep s

/-- The sequencer run for up to `k` engine steps. -/
def engineSteps : Nat → State → State
  | 0, s => s
  | k + 1, s => engineSteps k (engineStep s)

end Sys2Proof.Machine
end

