-- ==== Sys2Proof/Machine/Accept.lean ====
section
/-! DEFINITION. The command cycle at the port: accepting a command word (R120), the reset input (R200, R201),
and one engine step under each host input. `Step.lean` only calls it. -/

namespace Sys2Proof.Machine

/-- Acceptance of a command word by an idle engine (R120): an illegal word is answered with
ILLEGAL_COMMAND, a legal one runs its command rule. -/
def acceptWord (w : Word) (s : State) : Host.Outcome State Fault Refusal :=
  match decode w with
  | .ok i => exec i s
  | .error _ => held s (illegalEffect w s)

/-- The reset input (R200, R201): every piece of the engine's state takes its reset value, an operation
in progress is abandoned and no response is delivered. The host's side of the port is not the
engine's and stays. -/
def applyReset (s : State) : State :=
  { State.reset with hostIn := s.hostIn, hostOut := s.hostOut }

/-- The port with its first input consumed. -/
def dropInput (s : State) : State := { s with hostIn := s.hostIn.tail }

/-- One engine step. The host's reset wins over the sequencer. A command presented to a busy engine
waits, unchanged, while the sequencer steps (R203). An idle engine accepts it (R120). With nothing
presented the sequencer steps, or the idle engine keeps its state (R193). Log entry 4. -/
def cycle (s : State) : Host.Outcome State Fault Refusal :=
  match s.hostIn with
  | [] => .next (engineStep s)
  | .quiet :: _ => .next (engineStep (dropInput s))
  | .reset :: _ => .next (applyReset (dropInput s))
  | .command w :: _ => if s.busy then .next (engineStep s) else acceptWord w (dropInput s)

/-- The port with a command word presented next, to an engine that is ready to accept it. -/
def presentNext (w : Word) (s : State) : State :=
  { s with hostIn := .command w :: s.hostIn, pend := .none }

end Sys2Proof.Machine
end

