-- ==== Sys2Proof/Machine/Step.lean ====
section
/-! DEFINITION. The step function of the machine: one engine step (R10 b). -/

namespace Sys2Proof.Machine

/-- One engine step (R10 b, R120, R128, R151, R200, R203). -/
def step (s : State) : Host.Outcome State Fault Refusal := cycle s

/-- The state with a table word presented as the next command. The engine fetches nothing (R62): its
commands come from the host, so this stands for the host presenting the word, and for the idleness
acceptance needs (R120). On an idle engine nothing but the port changes. Log entry 3. -/
def State.withFetchWord (s : State) (nbits w : Nat) : State := presentNext (tableWord nbits w) s

end Sys2Proof.Machine
end

