-- ==== Sys2Proof/Machine/Platform.lean ====
section
/-! DEFINITION. Around the engine: how a word crosses a byte-wide bus (R54, R55), and several engines
(R64, R191). -/

namespace Sys2Proof.Machine

/-- The four bytes of a word on a byte-wide bus, lowest address first (R54). -/
def busBytes (o : ByteOrder) (w : Word) : List Byte :=
  let le := [w.extractLsb' 0 8, w.extractLsb' 8 8, w.extractLsb' 16 8, w.extractLsb' 24 8]
  match o with
  | .little => le
  | .big => le.reverse

/-- The word a bus access carries, when it carries one whole word (R54, R55). -/
def wordOfBusBytes (o : ByteOrder) (bs : List Byte) : Option Word :=
  match o, bs with
  | .little, [a, b, c, d] => some (d ++ c ++ b ++ a)
  | .big, [a, b, c, d] => some (a ++ b ++ c ++ d)
  | _, _ => none

/-- A host presents a command through a byte-wide bus in the platform's byte order. Anything but a whole
word is refused (R55, I11). Log entry 5. -/
def presentBytes (bs : List Byte) (s : State) : Host.Outcome State Fault Refusal :=
  match wordOfBusBytes Config.busByteOrder bs with
  | some w => .next { s with hostIn := s.hostIn ++ [.command w] }
  | none => .refused .partialWordAccess

/-- A platform of several engines, as a product of independent engines (R64, R191): engine `i` takes one
engine step, and a number that names no engine changes nothing. -/
def stepEngine (i : Nat) (engines : List State) : Host.Outcome (List State) Fault Refusal :=
  match engines[i]? with
  | none => .next engines
  | some s =>
    match step s with
    | .next t => .next (engines.set i t)
    | .fault f => .fault f
    | .refused r => .refused r

end Sys2Proof.Machine
end

