-- ==== Sys2Proof/Machine/Assembler.lean ====
section
/-! DEFINITION. Command scripts: the assembler's textual syntax (R80), CONSTRUCT's sizes (R81), byte strings
in hexadecimal (R82) and the pseudo-instructions (R83). Scripts are lists of characters. Log
entry 9. -/

namespace Sys2Proof.Machine

/-- Why the assembler refuses a line; it then emits nothing (R81). -/
inductive AsmError where
  | unknownMnemonic
  | badOperands
  | outOfRange
  | sizeNotEncodable
deriving DecidableEq, Repr

/-- The pseudo-instructions (R83), their byte strings read. -/
inductive Pseudo where
  | loadKey (bs : List Byte)
  | loadIv (bs : List Byte)
  | keystream (n : Nat)
  | encrypt (bs : List Byte)
  | decrypt (bs : List Byte)
  | setup (key iv : List Byte)
deriving DecidableEq, Repr

/-- `CONSTRUCT ks, ivs` with sizes in bits (R81): refused when a size is not a multiple of 8 or exceeds
2040, and not refused for a size the engine will reject. -/
def asmConstruct (ks ivs : Nat) : Except AsmError Instr :=
  if ks % 8 ≠ 0 ∨ ivs % 8 ≠ 0 ∨ 2040 < ks ∨ 2040 < ivs then .error .sizeNotEncodable
  else .ok (.construct (BitVec.ofNat 11 ks) (BitVec.ofNat 11 ivs))

/-- The expansion of a pseudo-instruction, in order (R83). -/
def expand (p : Pseudo) : Except AsmError (List Instr) :=
  match p with
  | .loadKey bs => .ok (bs.map .keyPush)
  | .loadIv bs => .ok (bs.map .ivPush)
  | .keystream n => .ok (List.replicate n .ksByte)
  | .encrypt bs => .ok (bs.map .encryptByte)
  | .decrypt bs => .ok (bs.map .decryptByte)
  | .setup k iv =>
    match asmConstruct (8 * k.length) (8 * iv.length) with
    | .ok c => .ok (k.map .keyPush ++ [c] ++ iv.map .ivPush ++ [.init])
    | .error e => .error e

/-! ### Text -/

/-- Blanks between the parts of a line. -/
def isBlank (c : Char) : Bool := c == ' ' || c == '\t' || c == '\r'

/-- A string of characters without the blanks at its ends. -/
def trim (cs : List Char) : List Char :=
  ((cs.dropWhile isBlank).reverse.dropWhile isBlank).reverse

/-- The pieces between separators. -/
def splitAt (sep : Char) (cs : List Char) : List (List Char) :=
  cs.foldr
    (fun c acc =>
      if c = sep then [] :: acc
      else match acc with
        | [] => [[c]]
        | a :: as => (c :: a) :: as)
    [[]]

/-- The value of a hexadecimal digit, in either case. -/
def digitValue (c : Char) : Option Nat :=
  if '0' ≤ c ∧ c ≤ '9' then some (c.toNat - '0'.toNat)
  else if 'a' ≤ c ∧ c ≤ 'f' then some (c.toNat - 'a'.toNat + 10)
  else if 'A' ≤ c ∧ c ≤ 'F' then some (c.toNat - 'A'.toNat + 10)
  else none

/-- A digit string read in a base, most significant digit first. -/
def digitsValue (base : Nat) (acc : Nat) : List Char → Option Nat
  | [] => some acc
  | c :: cs =>
    match digitValue c with
    | some v => if v < base then digitsValue base (base * acc + v) cs else none
    | none => none

/-- A number, decimal or 0x-prefixed hexadecimal (R80). -/
def parseNumber (cs : List Char) : Option Nat :=
  match cs with
  | [] => none
  | '0' :: 'x' :: [] => none
  | '0' :: 'x' :: ds => digitsValue 16 0 ds
  | ds => digitsValue 10 0 ds

/-- A byte string: an even number of hexadecimal digits, the first pair byte 0 (R82). -/
def parseHex : List Char → Option (List Byte)
  | [] => some []
  | [_] => none
  | h :: l :: cs =>
    match digitValue h, digitValue l, parseHex cs with
    | some a, some b, some bs => some (BitVec.ofNat 8 (16 * a + b) :: bs)
    | _, _, _ => none

/-- A line as read, before it becomes words. -/
inductive AsmLine where
  | blank
  | command (i : Instr)
  | rawWord (w : Word)
  | pseudo (p : Pseudo)
deriving DecidableEq, Repr

/-- A byte operand in [0, 255] (R80). -/
def withByte (i : Byte → Instr) (ops : List (List Char)) : Except AsmError AsmLine :=
  match ops with
  | [a] =>
    match parseNumber a with
    | some n => if n < 256 then .ok (.command (i (BitVec.ofNat 8 n))) else .error .outOfRange
    | none => .error .badOperands
  | _ => .error .badOperands

/-- No operand. -/
def withNone (i : Instr) (ops : List (List Char)) : Except AsmError AsmLine :=
  match ops with
  | [] => .ok (.command i)
  | _ => .error .badOperands

/-- One byte-string operand (R83). -/
def withHex (p : List Byte → Pseudo) (ops : List (List Char)) : Except AsmError AsmLine :=
  match ops with
  | [a] =>
    match parseHex a with
    | some bs => .ok (.pseudo (p bs))
    | none => .error .badOperands
  | _ => .error .badOperands

/-- The operands of CONSTRUCT, of `.word`, of KEYSTREAM and of SETUP (R80, R81, R83). -/
def constructLine (ops : List (List Char)) : Except AsmError AsmLine :=
  match ops with
  | [a, b] =>
    match parseNumber a, parseNumber b with
    | some ks, some ivs => (asmConstruct ks ivs).map .command
    | _, _ => .error .badOperands
  | _ => .error .badOperands

/-- `.word w` emits the word as it stands (R80). -/
def wordLine (ops : List (List Char)) : Except AsmError AsmLine :=
  match ops with
  | [a] =>
    match parseNumber a with
    | some n => if n < 2 ^ 32 then .ok (.rawWord (BitVec.ofNat 32 n)) else .error .outOfRange
    | none => .error .badOperands
  | _ => .error .badOperands

/-- `KEYSTREAM n` (R83). -/
def keystreamLine (ops : List (List Char)) : Except AsmError AsmLine :=
  match ops with
  | [a] =>
    match parseNumber a with
    | some n => .ok (.pseudo (.keystream n))
    | none => .error .badOperands
  | _ => .error .badOperands

/-- `SETUP khex, ivhex` (R83). -/
def setupLine (ops : List (List Char)) : Except AsmError AsmLine :=
  match ops with
  | [a, b] =>
    match parseHex a, parseHex b with
    | some k, some iv => .ok (.pseudo (.setup k iv))
    | _, _ => .error .badOperands
  | _ => .error .badOperands

/-- The mnemonics and what reads their operands (R71, R80, R83). -/
def mnemonics : List (String × (List (List Char) → Except AsmError AsmLine)) :=
  [ ("NOP", withNone .nop),
    ("KEY_PUSH", withByte .keyPush),
    ("IV_PUSH", withByte .ivPush),
    ("CONSTRUCT", constructLine),
    ("INITIALIZE", withNone .init),
    ("KS_BYTE", withNone .ksByte),
    ("ENCRYPT_BYTE", withByte .encryptByte),
    ("DECRYPT_BYTE", withByte .decryptByte),
    (".WORD", wordLine),
    ("LOAD_KEY", withHex .loadKey),
    ("LOAD_IV", withHex .loadIv),
    ("KEYSTREAM", keystreamLine),
    ("ENCRYPT", withHex .encrypt),
    ("DECRYPT", withHex .decrypt),
    ("SETUP", setupLine) ]

/-- The operands after a mnemonic: none, or the trimmed pieces between commas (R80). -/
def operandsOf (cs : List Char) : List (List Char) :=
  if trim cs = [] then [] else (splitAt ',' cs).map trim

/-- One line (R80): the comment dropped, the mnemonic read in either case, then its operands. R80 says
case-insensitive of R71's mnemonics only; that `.word` and R83's names are read in either case too is a
DESIGN CHOICE, unsafe for claims about script text, log entry 9. -/
def parseLine (line : List Char) : Except AsmError AsmLine :=
  let code := trim (line.takeWhile (fun c => c != ';'))
  if code = [] then .ok .blank
  else
    let name := (code.takeWhile (fun c => !isBlank c)).map Char.toUpper
    let rest := code.dropWhile (fun c => !isBlank c)
    match mnemonics.find? (fun m => m.1.toList == name) with
    | some m => m.2 (operandsOf rest)
    | none => .error .unknownMnemonic

/-- The words a line emits. -/
def emitLine (l : AsmLine) : Except AsmError (List Word) :=
  match l with
  | .blank => .ok []
  | .command i => .ok [encode i]
  | .rawWord w => .ok [w]
  | .pseudo p => (expand p).map (List.map encode)

/-- Lines assembled in order; the first error refuses the script. -/
def assembleLines : List (List Char) → Except AsmError (List Word)
  | [] => .ok []
  | l :: ls =>
    match parseLine l with
    | .error e => .error e
    | .ok a =>
      match emitLine a, assembleLines ls with
      | .ok ws, .ok rest => .ok (ws ++ rest)
      | .error e, _ => .error e
      | _, .error e => .error e

/-- A command script, one command per line (R80). -/
def assemble (script : List Char) : Except AsmError (List Word) :=
  assembleLines (splitAt '\n' script)

end Sys2Proof.Machine
end

