-- ==== Sys2Proof/Machine/CommandLevel.lean ====
section
/-! DEFINITION. The command level (R10 a): a command is one atomic transition, its acceptance, every step it
needs and its response together (R120, R130, R152). It is written without the sequencer, so that its
agreement with the step level says something. -/

namespace Sys2Proof.Machine

/-- INITIALIZE as one transition (R130): on success the loader, 256 warm-up steps, KEYSTREAMING and the OK
response. -/
def initAtomic (s : State) : State :=
  if s.phase = .empty ∨ ivLengthOk s = false then initEffect s
  else
    let r := warmSteps Config.warmupSteps (loadRegs s).regs
    respond 0x4 .ok 0
      { s with
        nfsr := r.nfsr, lfsr := r.lfsr, ivBuf := zeroBlock, ivCount := 0, warmCount := 256, phase := .keystreaming }

/-- A byte command as one transition (R152): eight steps, DOUT the keystream byte xor the operand. -/
def byteAtomic (opc : BitVec 4) (d : Byte) (s : State) : State :=
  if s.phase = .keystreaming then
    respond opc .ok (ksByteOf s.regs ^^^ d)
      { s with
        nfsr := (cipherSteps Config.bitsPerByte s.regs).nfsr
        lfsr := (cipherSteps Config.bitsPerByte s.regs).lfsr
        pendOpc := opc
        pendData := d
        acc := ksByteOf s.regs
        bitCount := 8 }
  else respond opc .notInitialized 0 s

/-- A legal command as one transition of an idle engine (R10 a, R120). -/
def atomicCommand (i : Instr) (s : State) : State :=
  match i with
  | .nop => respond 0x0 .ok 0 s
  | .keyPush d => respond 0x1 .ok 0 (pushKey d s)
  | .ivPush d => respond 0x2 .ok 0 (pushIv d s)
  | .construct ks ivs => constructEffect ks ivs s
  | .init => initAtomic s
  | .ksByte => byteAtomic 0x5 0 s
  | .encryptByte p => byteAtomic 0x6 p s
  | .decryptByte c => byteAtomic 0x7 c s

/-- A command word, legal or not, as one transition of an idle engine. -/
def commandLevel (w : Word) (s : State) : State :=
  match decode w with
  | .ok i => atomicCommand i s
  | .error _ => illegalEffect w s

end Sys2Proof.Machine
end

