-- ==== Sys2Proof/Machine/Library.lean ====
section
/-! DEFINITION. The source's library operations as driver-issued command sequences, at the command level
(R157 to R161). They are run on an idle engine; log entry 10. -/

namespace Sys2Proof.Machine

/-- The driver issues one command and reads RESULT and DOUT from its response (R76). -/
def issue (i : Instr) (s : State) : State := commandLevel (encode i) s

/-- The error a driver reads from the last response, if it is not OK. -/
def lastError (s : State) : Option Result :=
  match Result.ofCode (rspResult s.lastRsp) with
  | some .ok => none
  | some r => some r
  | none => some .illegalCommand

/-- Byte commands issued in order, their DOUT bytes collected; the first error stops the driver
(R157, R158). -/
def issueBytes : List Instr → State → Except Result (List Byte) × State
  | [], s => (.ok [], s)
  | i :: is, s =>
    let t := issue i s
    match lastError t with
    | some e => (.error e, t)
    | none =>
      match issueBytes is t with
      | (.ok bs, u) => (.ok (rspDout t.lastRsp :: bs), u)
      | (.error e, u) => (.error e, u)

/-- An empty request reads the status word only (R157): it fails outside KEYSTREAMING, and issues
nothing. -/
def emptyRequest (s : State) : Except Result (List Byte) × State :=
  if (statusWord s).extractLsb' 0 3 = Phase.keystreaming.code then (.ok [], s)
  else (.error .notInitialized, s)

/-- `keystream_bytes(n)` (R157). -/
def keystreamBytes (n : Nat) (s : State) : Except Result (List Byte) × State :=
  if n = 0 then emptyRequest s else issueBytes (List.replicate n .ksByte) s

/-- `encrypt_bytes(p)` (R158). -/
def encryptBytes (p : List Byte) (s : State) : Except Result (List Byte) × State :=
  if p = [] then emptyRequest s else issueBytes (p.map .encryptByte) s

/-- `decrypt_bytes(c)` (R159). -/
def decryptBytes (c : List Byte) (s : State) : Except Result (List Byte) × State :=
  if c = [] then emptyRequest s else issueBytes (c.map .decryptByte) s

/-- Commands issued in order, whatever their results. -/
def issueAll : List Instr → State → State
  | [], s => s
  | i :: is, s => issueAll is (issue i s)

/-- The result of the last command issued. -/
def lastResult (s : State) : Except Result Unit × State :=
  match lastError s with
  | some e => (.error e, s)
  | none => (.ok (), s)

/-- `construct(key, keysize, ivsize)` (R160): sizes that have no encoding are reported and nothing is
issued. -/
def libConstruct (key : List Byte) (keysize ivsize : Nat) (s : State) : Except Result Unit × State :=
  match asmConstruct keysize ivsize with
  | .error _ => (.error .unsupportedConfiguration, s)
  | .ok c => lastResult (issueAll (key.map .keyPush ++ [c]) s)

/-- `initialize(iv)` (R161). -/
def libInitialize (iv : List Byte) (s : State) : Except Result Unit × State :=
  lastResult (issueAll (iv.map .ivPush ++ [.init]) s)

end Sys2Proof.Machine
end

