-- ==== Sys2Proof/Safety.lean ====
section
/-! DEFINITION. The terms statements are made in: the invariants of R36, R29 and R30, what the host can see
(R37), and the events that may change a piece of state (R20, R21, R22, R26). -/

namespace Sys2Proof.Machine

/-- The invariants of every reachable state, R36 (c) to (h). Items (a) and (b) hold by the types. -/
structure Inv (s : State) : Prop where
  /-- (c) -/
  emptyIsClean : s.phase = .empty →
    s.keySize = 0 ∧ s.ivSize = 0 ∧ s.key = zeroBlock ∧ s.nfsr = 0 ∧ s.lfsr = 0
  /-- (d) -/
  sizesSupported : s.phase ≠ .empty → s.keySize = 128 ∧ (s.ivSize = 96 ∨ s.ivSize = 128)
  /-- (e) -/
  warmupPhase : s.pend = .warmup ↔ s.phase = .initializing
  /-- (f) -/
  bytePhase : s.pend = .byte → s.phase = .keystreaming
  /-- (g), the warm-up -/
  warmupRoom : s.pend = .warmup → s.warmCount.toNat < 256
  /-- (g), the byte -/
  byteRoom : s.pend = .byte → s.bitCount.toNat < 8
  /-- (h), the key buffer -/
  keyBufTail : ∀ (i : Nat) (h : i < 16), s.keyCount.toNat ≤ i → s.keyBuf[i] = 0
  /-- (h), the IV buffer -/
  ivBufTail : ∀ (i : Nat) (h : i < 16), s.ivCount.toNat ≤ i → s.ivBuf[i] = 0

/-- What the sequencer's fields hold in every reachable state (R29, R30). -/
structure SequencerInv (s : State) : Prop where
  /-- WARM_COUNT is 0 to 256 (R29). -/
  warmRange : s.warmCount.toNat ≤ 256
  /-- BIT_COUNT is 0 to 8 (R30). -/
  bitRange : s.bitCount.toNat ≤ 8
  /-- WARM_COUNT keeps 256 after the warm-up (R29). -/
  warmKept : s.phase = .keystreaming → s.warmCount.toNat = 256
  /-- PEND_OPC is 5, 6 or 7 during a byte command (R30). -/
  byteOpcode : s.pend = .byte → s.pendOpc = 5 ∨ s.pendOpc = 6 ∨ s.pendOpc = 7
  /-- PEND_DATA is 0 for KS_BYTE (R30). -/
  ksData : s.pend = .byte → s.pendOpc = 5 → s.pendData = 0
  /-- ACC holds only the bits packed so far (R30). -/
  accTail : s.pend = .byte → ∀ k, s.bitCount.toNat ≤ k → s.acc.getLsbD k = false

/-- A word some command can answer: an output byte only in an OK response of a byte command
(R76, R131). -/
def Answer (w : Word) : Prop :=
  ∃ (opc : BitVec 4) (p : Phase) (r : Result) (d : Byte), w = responseWord opc p r d ∧
    (d ≠ 0 → r = .ok ∧ (opc = 5 ∨ opc = 6 ∨ opc = 7))

/-- The state after a command completes with the response word `w` (R181). -/
def State.answered (s : State) (w : Word) : State :=
  { s with lastRsp := w, hostOut := s.hostOut ++ [w] }

/-- At the port no reset and no quiet step comes next: nothing, or a command word. -/
def PortHolds (s : State) : Prop := s.hostIn = [] ∨ ∃ w rest, s.hostIn = .command w :: rest

/-- The port after a step of a busy engine: a quiet step is over, anything else stays. -/
def afterBusyStep (is : List HostInput) : List HostInput :=
  match is with
  | .quiet :: rest => rest
  | [] => []
  | .command w :: rest => .command w :: rest
  | .reset :: rest => .reset :: rest

/-- The engine is idle and the command `i` is presented next. -/
def Accepts (s : State) (i : Instr) : Prop :=
  s.pend = .none ∧ ∃ w rest, s.hostIn = .command w :: rest ∧ decode w = .ok i

/-- The reset input comes next. -/
def Resets (s : State) : Prop := ∃ rest, s.hostIn = .reset :: rest

/-- CONSTRUCT's conditions for success (R124). -/
def ConstructSucceeds (s : State) (ks ivs : BitVec 11) : Prop :=
  ks = 128 ∧ (ivs = 96 ∨ ivs = 128) ∧ s.keyCount = 16

/-- The number of command words still at the port. -/
def waiting : List HostInput → Nat
  | [] => 0
  | .command _ :: is => waiting is + 1
  | .quiet :: is => waiting is
  | .reset :: is => waiting is

/-- Commands not yet answered plus answers given: what no step but a reset changes (R181). -/
def commandCount (s : State) : Nat :=
  waiting s.hostIn + (if s.busy then 1 else 0) + s.hostOut.length

/-- What the host's input does at the command level. A reset is not a command. -/
def applyInput (s : State) (i : HostInput) : State :=
  match i with
  | .command w => commandLevel w s
  | .quiet => s
  | .reset => s

/-- All the host can see of the engine (R37). -/
structure HostView where
  status : Word
  lastRsp : Word
  delivered : List Word
deriving DecidableEq, Repr

/-- The host's view of a state (R37). -/
def hostView (s : State) : HostView :=
  { status := statusWord s, lastRsp := s.lastRsp, delivered := s.hostOut }

/-- The state with its secret contents blanked: the registers, the key, the transfer buffers' bytes, the
keystream bits packed so far and the pending operand (R37). -/
def publicPart (s : State) : State :=
  { s with
    nfsr := 0, lfsr := 0, key := zeroBlock, keyBuf := zeroBlock, ivBuf := zeroBlock,
    acc := 0, pendData := 0 }

/-- The boot sequence of R202 at the command level: the expansion of SETUP (R83) issued in order. -/
def bootSequence (key iv : List Byte) (s : State) : Except AsmError State :=
  (expand (.setup key iv)).map (fun is => issueAll is s)

end Sys2Proof.Machine
end

