-- ==== Sys2Proof/Certificates/Slice0/Obligations.lean ====
section
/-! DEFINITION. The statements about the engine that are to be proved, each after a rule of spec/. -/

open Sys2Proof Sys2Proof.Machine

/-! ### Encoding (30_encoding.md) -/

/-- Every well-formed command is what the decoder reads from its word, for every operand. -/
def Obligations.DecodeOfEncode : Prop :=
  ∀ i : Instr, WellFormed i → decode (encode i) = .ok i

/-- Every legal word is the word of exactly the command the decoder reads: no bit is dropped. -/
def Obligations.EncodeOfDecode : Prop :=
  ∀ (w : Word) (i : Instr), decode w = .ok i → WellFormed i ∧ encode i = w

/-- R74: each row of the pattern table decodes to its command with the operands taken from the bits
outside the mask; a word that matches no row is illegal; no word matches two rows. -/
def Obligations.DecodeFollowsPatternTable : Prop :=
  ∀ w : Word,
    (w &&& 0xFFFFFFFF#32 = 0x0#32 → decode w = .ok .nop) ∧
    (w &&& 0xFFFF00FF#32 = 0x1#32 → decode w = .ok (.keyPush (w.extractLsb' 8 8))) ∧
    (w &&& 0xFFFF00FF#32 = 0x2#32 → decode w = .ok (.ivPush (w.extractLsb' 8 8))) ∧
    (w &&& 0x0000FFFF#32 = 0x3#32 →
      ∃ ks ivs : BitVec 11, decode w = .ok (.construct ks ivs) ∧
        ks.toNat = 8 * (w.extractLsb' 16 8).toNat ∧ ivs.toNat = 8 * (w.extractLsb' 24 8).toNat) ∧
    (w &&& 0xFFFFFFFF#32 = 0x4#32 → decode w = .ok .init) ∧
    (w &&& 0xFFFFFFFF#32 = 0x5#32 → decode w = .ok .ksByte) ∧
    (w &&& 0xFFFF00FF#32 = 0x6#32 → decode w = .ok (.encryptByte (w.extractLsb' 8 8))) ∧
    (w &&& 0xFFFF00FF#32 = 0x7#32 → decode w = .ok (.decryptByte (w.extractLsb' 8 8))) ∧
    ((∃ i, decode w = .ok i) ↔ ∃ p ∈ patterns, p.Matches w) ∧
    (∀ p ∈ patterns, ∀ q ∈ patterns, p.Matches w → q.Matches w → p = q)

/-- Words written out from R74's encodings and R81's examples decode to the commands they stand for. -/
def Obligations.ExampleWordsDecode : Prop :=
  decode 0x00000000#32 = .ok .nop ∧
  decode 0x0000AB01#32 = .ok (.keyPush 0xAB#8) ∧
  decode 0x0000FF02#32 = .ok (.ivPush 0xFF#8) ∧
  decode 0x0C100003#32 = .ok (.construct 128#11 96#11) ∧
  decode 0x10100003#32 = .ok (.construct 128#11 128#11) ∧
  decode 0x00000004#32 = .ok .init ∧
  decode 0x00000005#32 = .ok .ksByte ∧
  decode 0x00005006#32 = .ok (.encryptByte 0x50#8) ∧
  decode 0x00009507#32 = .ok (.decryptByte 0x95#8)

/-- R75: which words are illegal, and that an idle engine that accepts an illegal word answers it with
ILLEGAL_COMMAND (6), DOUT 0, the current PHASE and the OPC echo, and changes nothing else. -/
def Obligations.IllegalWordsOnlyAnswered : Prop :=
  (∀ w : Word, (∃ e, decode w = .error e) ↔
    8 ≤ (w.extractLsb' 0 4).toNat ∨ w.extractLsb' 4 4 ≠ 0#4 ∨
    ((w.extractLsb' 0 4).toNat ∉ [1, 2, 6, 7] ∧ w.extractLsb' 8 8 ≠ 0#8) ∨
    ((w.extractLsb' 0 4).toNat ≠ 3 ∧ (w.extractLsb' 16 8 ≠ 0#8 ∨ w.extractLsb' 24 8 ≠ 0#8))) ∧
  (∀ (s : State) (w : Word) (e : Illegal), s.pend = .none → decode w = .error e →
    acceptWord w s = .next (s.answered
      (0#12 ++ w.extractLsb' 0 4 ++ 0#1 ++ s.phase.code ++ 6#4 ++ 0#8)))

/-- R76: the fields of the response word a completing command writes; and the codes of PHASE (R25), RESULT
(R180) and PEND (R30) that the words and registers are made of. -/
def Obligations.ResponseWordFields : Prop :=
  (∀ (opc : BitVec 4) (p : Phase) (r : Result) (d : Byte),
    let w := responseWord opc p r d
    w.extractLsb' 0 8 = d ∧ w.extractLsb' 8 4 = r.code ∧ w.extractLsb' 12 3 = p.code ∧
    w.extractLsb' 15 1 = 0#1 ∧ w.extractLsb' 16 4 = opc ∧ w.extractLsb' 20 12 = 0#12) ∧
  (Phase.empty.code = 0#3 ∧ Phase.constructed.code = 1#3 ∧ Phase.initializing.code = 2#3 ∧
    Phase.keystreaming.code = 3#3 ∧ Phase.failed.code = 4#3) ∧
  (Result.ok.code = 0#4 ∧ Result.invalidKeyLength.code = 1#4 ∧ Result.invalidIvLength.code = 2#4 ∧
    Result.unsupportedConfiguration.code = 3#4 ∧ Result.notInitialized.code = 4#4 ∧
    Result.notConstructed.code = 5#4 ∧ Result.illegalCommand.code = 6#4) ∧
  (∀ (c : BitVec 4) (r : Result), Result.ofCode c = some r ↔ r.code = c) ∧
  (Pend.none.code = 0#2 ∧ Pend.warmup.code = 1#2 ∧ Pend.byte.code = 2#2)

/-- R77: the fields of the status word in every state, busy or idle. -/
def Obligations.StatusWordFields : Prop :=
  ∀ s : State,
    let w := statusWord s
    w.extractLsb' 0 3 = s.phase.code ∧ (w.extractLsb' 3 1 = 1#1 ↔ s.pend ≠ .none) ∧
    w.extractLsb' 4 4 = 0#4 ∧ w.extractLsb' 8 8 = s.keyCount ∧
    w.extractLsb' 16 8 = s.ivCount ∧ w.extractLsb' 24 8 = 0#8

/-! ### The step function (40_step_function.md) -/

/-- R101 to R105: a step's output and feedback bits from the cells before the step, both registers shifted
by one cell, and the rules' corner cases. -/
def Obligations.StepReadsThenShifts : Prop :=
  (∀ n l : Cells,
    let N := n.getLsbD
    let L := l.getLsbD
    let o := cipherStep { nfsr := n, lfsr := l }
    let nb := L 0 ^^ N 0 ^^ N 26 ^^ N 56 ^^ N 91 ^^ N 96 ^^ (N 3 && N 67) ^^ (N 11 && N 13)
      ^^ (N 17 && N 18) ^^ (N 27 && N 59) ^^ (N 40 && N 48) ^^ (N 61 && N 65) ^^ (N 68 && N 84)
    let lb := L 0 ^^ L 7 ^^ L 38 ^^ L 70 ^^ L 81 ^^ L 96
    o.1 = (N 2 ^^ N 15 ^^ N 36 ^^ N 45 ^^ N 64 ^^ N 73 ^^ N 89 ^^ L 93 ^^ (N 12 && L 8)
      ^^ (L 13 && L 20) ^^ (N 95 && L 42) ^^ (L 60 && L 79) ^^ (N 12 && N 95 && L 95)) ∧
    (∀ i, i < 127 → o.2.nfsr.getLsbD i = N (i + 1) ∧ o.2.lfsr.getLsbD i = L (i + 1)) ∧
    o.2.nfsr.getLsbD 127 = nb ∧ o.2.lfsr.getLsbD 127 = lb ∧
    o.2.nfsr = (n >>> 1) ||| ((BitVec.ofBool nb).setWidth 128 <<< 127) ∧
    o.2.lfsr = (l >>> 1) ||| ((BitVec.ofBool lb).setWidth 128 <<< 127)) ∧
  cipherStep { nfsr := 0, lfsr := 0 } = (false, { nfsr := 0, lfsr := 0 }) ∧
  (∀ ones : Regs, ones = { nfsr := BitVec.allOnes 128, lfsr := BitVec.allOnes 128 } →
    outbit ones = true ∧ nfsrBit ones = true ∧ lfsrBit ones = false) ∧
  outbit { nfsr := 0x00000000800000000000000000001000#128,
           lfsr := 0x00000000800000000000000000000000#128 } = true ∧
  outbit { nfsr := 0x00000000800000000000000000001000#128, lfsr := 0 } = false ∧
  nfsrBit { nfsr := 0, lfsr := 1#128 } = true ∧
  nfsrBit { nfsr := 0x00000000000000080000000000000008#128, lfsr := 0 } = true ∧
  lfsrBit { nfsr := 0, lfsr := 0x00000001000000000000000000000000#128 } = true ∧
  (cipherStep { nfsr := 0x80000000000000000000000000000000#128, lfsr := 0 }).2 =
    { nfsr := 0x40000000000000000000000000000000#128, lfsr := 0 } ∧
  (cipherStep { nfsr := 8#128, lfsr := 0 }).1 = false

/-- R107 (an inference of the spec): no step reads cells 97 to 127, so registers that agree below cell 97
give the same three bits, and the output does not depend on either cell 0. -/
def Obligations.TapsStayBelowCell97 : Prop :=
  (∀ r t : Regs,
    (∀ i, i < 97 → r.nfsr.getLsbD i = t.nfsr.getLsbD i ∧ r.lfsr.getLsbD i = t.lfsr.getLsbD i) →
    outbit r = outbit t ∧ nfsrBit r = nfsrBit t ∧ lfsrBit r = lfsrBit t) ∧
  (∀ r t : Regs,
    (∀ i ∈ [2, 12, 15, 36, 45, 64, 73, 89, 95], r.nfsr.getLsbD i = t.nfsr.getLsbD i) →
    (∀ i ∈ [8, 13, 20, 42, 60, 79, 93, 95], r.lfsr.getLsbD i = t.lfsr.getLsbD i) →
    outbit r = outbit t)

/-- R111 (an inference of the spec): the all-zero registers stay so under any number of steps and give only
zero bytes, and the loader reaches them exactly for a zero key with a zero 128-bit IV. -/
def Obligations.ZeroRegistersAreFixed : Prop :=
  (∀ k, cipherSteps k { nfsr := 0, lfsr := 0 } = { nfsr := 0, lfsr := 0 } ∧
    warmSteps k { nfsr := 0, lfsr := 0 } = { nfsr := 0, lfsr := 0 } ∧
    ksByteOf (cipherSteps k { nfsr := 0, lfsr := 0 }) = 0) ∧
  (∀ (key iv : Block) (m : Nat), m = 12 ∨ m = 16 →
    ((loadNfsr key = 0 ∧ loadLfsr m iv = 0) ↔
      (m = 16 ∧ (∀ (i : Nat) (h : i < 16), key[i] = 0) ∧ ∀ (i : Nat) (h : i < 16), iv[i] = 0)))

/-- R125: the loader puts bit `j` of key byte `i` in NFSR cell `8 * i + j`, and so writes every cell; the
packed value is the key read as a little-endian number. -/
def Obligations.LoaderPlacesKeyBits : Prop :=
  ∀ key : Block,
    (∀ (i j : Nat) (hi : i < 16), j < 8 →
      (loadNfsr key).getLsbD (8 * i + j) = key[i].getLsbD j) ∧
    (loadNfsr key).toNat = ∑ i : Fin 16, key[i].toNat * 2 ^ (8 * i.val)

/-- R126: the loader puts bit `j` of IV byte `i` in LFSR cell `8 * i + j` for the IVSIZE / 8 bytes of the IV
and 1 in every other cell; and the packed value. -/
def Obligations.LoaderPlacesIvBits : Prop :=
  ∀ (iv : Block) (m : Nat), m = 12 ∨ m = 16 →
    (∀ (i j : Nat) (hi : i < 16), j < 8 → i < m →
      (loadLfsr m iv).getLsbD (8 * i + j) = iv[i].getLsbD j) ∧
    (∀ i j : Nat, i < 16 → j < 8 → m ≤ i → (loadLfsr m iv).getLsbD (8 * i + j) = true) ∧
    (loadLfsr m iv).toNat =
      (∑ i : Fin 16, if i.val < m then iv[i].toNat * 2 ^ (8 * i.val) else 0) +
        (if m = 12 then 0xFFFFFFFF * 2 ^ 96 else 0)

/-- R52, R152: bit `k` of a keystream byte is the output of the `k`-th of its eight steps. -/
def Obligations.KeystreamByteBits : Prop :=
  ∀ (r : Regs) (k : Nat), k < 8 →
    (ksByteOf r).getLsbD k = (cipherStep (cipherSteps k r)).1

/-! ### The commands: results and frames -/

/-- R121: NOP answers OK in every phase and changes nothing else; only the zero word is a NOP. -/
def Obligations.NopOnlyAnswers : Prop :=
  (∀ w : Word, decode w = .ok .nop ↔ w = 0x00000000#32) ∧
  (∀ s : State, s.pend = .none →
    exec .nop s = .next (s.answered (responseWord 0 s.phase .ok 0))) ∧
  responseWord 0 .keystreaming .ok 0 = 0x00003000#32

/-- R122: KEY_PUSH in every phase. The byte goes to KEYBUF[KEY_COUNT] while the count is below 16, later
bytes are counted but not stored, the count saturates at 255, and nothing else changes but the answer. -/
def Obligations.KeyPushFillsKeyBuffer : Prop :=
  (∀ (w : Word) (d : Byte), decode w = .ok (.keyPush d) ↔
    w &&& 0xFFFF00FF#32 = 0x00000001#32 ∧ d = w.extractLsb' 8 8) ∧
  ∀ (s : State) (d : Byte), s.pend = .none →
    ∃ t, exec (.keyPush d) s = .next t ∧
      (∀ (i : Nat) (h : i < 16), t.keyBuf[i] = if i = s.keyCount.toNat then d else s.keyBuf[i]) ∧
      t.keyCount.toNat = min (s.keyCount.toNat + 1) 255 ∧
      t = State.answered { s with keyBuf := t.keyBuf, keyCount := t.keyCount }
        (responseWord 1 s.phase .ok 0)

/-- R123: IV_PUSH, as KEY_PUSH, with IVBUF and IV_COUNT. -/
def Obligations.IvPushFillsIvBuffer : Prop :=
  (∀ (w : Word) (d : Byte), decode w = .ok (.ivPush d) ↔
    w &&& 0xFFFF00FF#32 = 0x00000002#32 ∧ d = w.extractLsb' 8 8) ∧
  ∀ (s : State) (d : Byte), s.pend = .none →
    ∃ t, exec (.ivPush d) s = .next t ∧
      (∀ (i : Nat) (h : i < 16), t.ivBuf[i] = if i = s.ivCount.toNat then d else s.ivBuf[i]) ∧
      t.ivCount.toNat = min (s.ivCount.toNat + 1) 255 ∧
      t = State.answered { s with ivBuf := t.ivBuf, ivCount := t.ivCount }
        (responseWord 2 s.phase .ok 0)

/-- R124, R183: CONSTRUCT in every phase, its two checks in order, and all it writes in each case. -/
def Obligations.ConstructChecksThenStores : Prop :=
  (∀ (w : Word) (ks ivs : BitVec 11), decode w = .ok (.construct ks ivs) ↔
    w &&& 0x0000FFFF#32 = 0x00000003#32 ∧ ks.toNat = 8 * (w.extractLsb' 16 8).toNat ∧
      ivs.toNat = 8 * (w.extractLsb' 24 8).toNat) ∧
  ∀ (s : State) (ks ivs : BitVec 11), s.pend = .none →
    exec (.construct ks ivs) s = .next
      (if ¬ (ks.toNat = 128 ∧ (ivs.toNat = 96 ∨ ivs.toNat = 128)) then
        State.answered { s with keyBuf := Vector.replicate 16 0, keyCount := 0 }
          (responseWord 3 s.phase .unsupportedConfiguration 0)
      else if s.keyCount.toNat ≠ 16 then
        State.answered { s with keyBuf := Vector.replicate 16 0, keyCount := 0 }
          (responseWord 3 s.phase .invalidKeyLength 0)
      else
        State.answered
          { s with
            key := s.keyBuf, keySize := 128, ivSize := BitVec.ofNat 8 ivs.toNat, nfsr := 0, lfsr := 0,
            phase := .constructed, keyBuf := Vector.replicate 16 0, keyCount := 0 }
          (responseWord 3 .constructed .ok 0))

/-- R127 up to the acceptance: INITIALIZE, its two checks in order before any register is written, and all
its acceptance writes in each case. -/
def Obligations.InitializeChecksThenLoads : Prop :=
  (∀ w : Word, decode w = .ok .init ↔ w = 0x00000004#32) ∧
  ∀ s : State, s.pend = .none →
    exec .init s = .next
      (if s.phase = .empty then
        State.answered { s with ivBuf := Vector.replicate 16 0, ivCount := 0 }
          (responseWord 4 .empty .notConstructed 0)
      else if s.ivCount.toNat ≠ s.ivSize.toNat / 8 then
        State.answered { s with ivBuf := Vector.replicate 16 0, ivCount := 0, phase := .failed }
          (responseWord 4 .failed .invalidIvLength 0)
      else
        { s with
          nfsr := loadNfsr s.key, lfsr := loadLfsr (s.ivSize.toNat / 8) s.ivBuf,
          ivBuf := Vector.replicate 16 0, ivCount := 0,
          warmCount := 0, pend := .warmup, phase := .initializing })

/-- R156: the byte commands in a phase other than KEYSTREAMING answer NOT_INITIALIZED and change nothing
else; INITIALIZING is such a phase only in a busy engine. -/
def Obligations.ByteCommandsNeedKeystreaming : Prop :=
  (∀ (s : State) (d : Byte), s.pend = .none → s.phase ≠ .keystreaming →
    exec .ksByte s = .next (s.answered (responseWord 5 s.phase .notInitialized 0)) ∧
    exec (.encryptByte d) s = .next (s.answered (responseWord 6 s.phase .notInitialized 0)) ∧
    exec (.decryptByte d) s = .next (s.answered (responseWord 7 s.phase .notInitialized 0))) ∧
  (∀ s : State, Inv s → s.phase = .initializing → s.pend ≠ .none)

/-- R153, R154, R155, the acceptance: in KEYSTREAMING a byte command starts the byte sequencer and changes
nothing else; it gives no answer yet. -/
def Obligations.ByteCommandsStartSequencer : Prop :=
  ∀ (s : State) (d : Byte), s.pend = .none → s.phase = .keystreaming →
    exec .ksByte s = .next
      { s with pend := .byte, pendOpc := 5, pendData := 0, acc := 0, bitCount := 0 } ∧
    exec (.encryptByte d) s = .next
      { s with pend := .byte, pendOpc := 6, pendData := d, acc := 0, bitCount := 0 } ∧
    exec (.decryptByte d) s = .next
      { s with pend := .byte, pendOpc := 7, pendData := d, acc := 0, bitCount := 0 }

/-- R153, R154, R155, the whole command: the acceptance and eight engine steps answer OK with the keystream
byte xor the operand (0 for KS_BYTE), advance the registers by eight steps, and change nothing else but
the sequencer's fields. -/
def Obligations.ByteCommandsDeliverKeystream : Prop :=
  ∀ (s : State) (i : Instr) (opc : BitVec 4) (d : Byte),
    s.pend = .none → s.phase = .keystreaming → PortHolds s →
    (i = .ksByte ∧ opc = 5 ∧ d = 0 ∨ i = .encryptByte d ∧ opc = 6 ∨ i = .decryptByte d ∧ opc = 7) →
    ∃ t, exec i s = .next t ∧
      core.run 8 t = .next (State.answered
        { s with
          nfsr := (cipherSteps 8 s.regs).nfsr, lfsr := (cipherSteps 8 s.regs).lfsr,
          pendOpc := opc, pendData := d, acc := ksByteOf s.regs, bitCount := 8 }
        (responseWord opc .keystreaming .ok (ksByteOf s.regs ^^^ d)))

/-- R130 (an inference of the spec), R127 to R129: a successful INITIALIZE, its acceptance and 256 engine
steps, from CONSTRUCTED, KEYSTREAMING or FAILED. -/
def Obligations.InitializeCompletes : Prop :=
  ∀ s : State, s.pend = .none → s.phase ≠ .empty → s.ivCount.toNat = s.ivSize.toNat / 8 → PortHolds s →
    let r := warmSteps 256
      { nfsr := loadNfsr s.key, lfsr := loadLfsr (s.ivSize.toNat / 8) s.ivBuf }
    ∃ t, exec .init s = .next t ∧
      core.run 256 t = .next (State.answered
        { s with
          nfsr := r.nfsr, lfsr := r.lfsr, ivBuf := Vector.replicate 16 0, ivCount := 0,
          warmCount := 256, phase := .keystreaming }
        0x00043000#32)

/-! ### The sequencer -/

/-- R128, R129: one engine step of the warm-up. The step's output is folded into cell 127 of both registers
and goes nowhere else; the 256th completes the INITIALIZE. -/
def Obligations.WarmupEngineStep : Prop :=
  ∀ s : State, s.pend = .warmup →
    let t := engineStep s
    (∀ i, i < 127 → t.nfsr.getLsbD i = s.nfsr.getLsbD (i + 1) ∧
      t.lfsr.getLsbD i = s.lfsr.getLsbD (i + 1)) ∧
    t.nfsr.getLsbD 127 = (nfsrBit s.regs ^^ outbit s.regs) ∧
    t.lfsr.getLsbD 127 = (lfsrBit s.regs ^^ outbit s.regs) ∧
    t = if s.warmCount = 255 then
        State.answered
          { s with
            nfsr := t.nfsr, lfsr := t.lfsr, warmCount := 256, pend := .none, phase := .keystreaming }
          0x00043000#32
      else { s with nfsr := t.nfsr, lfsr := t.lfsr, warmCount := s.warmCount + 1 }

/-- R151: one engine step of a byte command. The step's output is packed at BIT_COUNT with no fold; the
eighth completes the command with DOUT = ACC xor PEND_DATA. -/
def Obligations.ByteEngineStep : Prop :=
  ∀ s : State, s.pend = .byte →
    let t := engineStep s
    (∀ k, k < 8 → t.acc.getLsbD k =
      (s.acc.getLsbD k || (k == s.bitCount.toNat && outbit s.regs))) ∧
    t = if s.bitCount = 7 then
        State.answered
          { s with
            nfsr := (cipherStep s.regs).2.nfsr, lfsr := (cipherStep s.regs).2.lfsr,
            acc := t.acc, bitCount := 8, pend := .none }
          (responseWord s.pendOpc s.phase .ok (t.acc ^^^ s.pendData))
      else
        { s with
          nfsr := (cipherStep s.regs).2.nfsr, lfsr := (cipherStep s.regs).2.lfsr,
          acc := t.acc, bitCount := s.bitCount + 1 }

/-- Log entries 1 and 4 (the model's port, and the order it gives a step): a busy engine without a reset takes one
sequencer step, whatever is presented, and a waiting command stays at the port; an idle engine with
nothing presented keeps all its state (R193). -/
def Obligations.StepWithoutAcceptance : Prop :=
  (∀ s : State, s.pend ≠ .none → ¬ Resets s →
    step s = .next (engineStep { s with hostIn := afterBusyStep s.hostIn })) ∧
  (∀ s : State, s.pend = .none → s.hostIn = [] → step s = .next s) ∧
  (∀ (s : State) (rest : List HostInput), s.pend = .none → s.hostIn = .quiet :: rest →
    step s = .next { s with hostIn := rest })

/-- R203: a command presented to a busy engine is held, unchanged; the hold ends after at most 256 engine
steps, 8 for a byte command; then the command is accepted. -/
def Obligations.BusyHoldEnds : Prop :=
  (∀ (s : State) (i : Instr), s.pend ≠ .none → exec i s = .next s) ∧
  (∀ (s : State) (w : Word) (rest : List HostInput), Inv s → s.pend ≠ .none →
    s.hostIn = .command w :: rest →
    ∃ k t, 1 ≤ k ∧ k ≤ 256 ∧ (s.pend = .byte → k ≤ 8) ∧
      (∀ j, j < k → ∃ u, core.run j s = .next u ∧ u.pend = s.pend ∧ u.hostIn = s.hostIn) ∧
      core.run k s = .next t ∧ t.pend = .none ∧ t.hostIn = s.hostIn ∧
      step t = acceptWord w { t with hostIn := rest })

/-- R10: the two levels agree. One command word presented to an idle engine, and the 257 engine steps the
longest command takes, leave exactly the state of the command level's one transition. -/
def Obligations.StepLevelRefinesCommandLevel : Prop :=
  ∀ (s : State) (w : Word), s.pend = .none →
    core.run 257 { s with hostIn := [.command w] } = .next (commandLevel w { s with hostIn := [] })

/-- R58, R210: a stream of commands, with any quiet steps between them, leaves the sequential composition
of the commands, whenever they arrive. -/
def Obligations.StreamIsSequentialComposition : Prop :=
  ∀ (s : State) (ins : List HostInput), s.pend = .none → .reset ∉ ins →
    core.run (257 * ins.length) { s with hostIn := ins } =
      .next (ins.foldl applyInput { s with hostIn := [] })

/-! ### Reset, the port and the whole machine -/

/-- R35: the value of every piece of state after reset. -/
def Obligations.ResetValues : Prop :=
  let s := State.reset
  s.nfsr = 0#128 ∧ s.lfsr = 0#128 ∧ (∀ (i : Nat) (h : i < 16), s.key[i] = 0x00#8) ∧
  s.keySize = 0#8 ∧ s.ivSize = 0#8 ∧ s.phase.code = 0#3 ∧
  (∀ (i : Nat) (h : i < 16), s.keyBuf[i] = 0x00#8) ∧ s.keyCount = 0#8 ∧
  (∀ (i : Nat) (h : i < 16), s.ivBuf[i] = 0x00#8) ∧ s.ivCount = 0#8 ∧
  s.warmCount = 0#9 ∧ s.pend.code = 0#2 ∧ s.pendOpc = 0#4 ∧ s.pendData = 0#8 ∧ s.acc = 0#8 ∧
  s.bitCount = 0#4 ∧ s.lastRsp = 0x00000000#32

/-- R200, R201: the reset input, busy or idle, gives every piece of the engine's state its reset value and
delivers no response. -/
def Obligations.ResetInputAbandons : Prop :=
  ∀ (s : State) (rest : List HostInput), s.hostIn = .reset :: rest →
    step s = .next { State.reset with hostIn := rest, hostOut := s.hostOut }

/-- A step of an idle engine with a word at the port takes the word from the port and accepts it; a legal
word's acceptance is the execution of the command it decodes to (R120). -/
def Obligations.StepRunsDecodedCommand : Prop :=
  ∀ (s : State) (w : Word) (rest : List HostInput), s.pend = .none → s.hostIn = .command w :: rest →
    step s = acceptWord w { s with hostIn := rest } ∧
    ∀ i : Instr, decode w = .ok i → step s = exec i { s with hostIn := rest }

/-- R108, R184: no step ends in a fault or a refusal. -/
def Obligations.StepNeverStops : Prop :=
  ∀ s : State, ∃ t, step s = .next t

/-- The reset state has the invariants of R36, R29 and R30. -/
def Obligations.ResetHasInvariants : Prop := Inv State.reset ∧ SequencerInv State.reset

/-- R36 (an inference of the spec): every step keeps the invariants. -/
def Obligations.StepKeepsStateInvariant : Prop :=
  ∀ s t : State, Inv s → step s = .next t → Inv t

/-- R29, R30: every step keeps the sequencer's fields in their ranges. -/
def Obligations.StepKeepsSequencerInvariant : Prop :=
  ∀ s t : State, Inv s → SequencerInv s → step s = .next t → SequencerInv t

/-- R76, R181: every delivered word is a response word, and only an OK answer of a byte command has a DOUT
other than 0. (That no warm-up bit is shown is WarmupEngineStep and SecretsStayHidden.) -/
def Obligations.OnlyByteAnswersHaveDout : Prop :=
  ∀ s t : State, SequencerInv s → (∀ w ∈ s.lastRsp :: s.hostOut, Answer w) → step s = .next t →
    ∀ w ∈ t.lastRsp :: t.hostOut, Answer w

/-- R181, R32: every accepted command is answered exactly once. A step writes LAST_RSP exactly when it
delivers a word, that word, and keeps the count of commands waiting, in progress and answered. -/
def Obligations.EveryCommandAnsweredOnce : Prop :=
  ∀ s t : State, ¬ Resets s → step s = .next t →
    (t.hostOut = s.hostOut ∧ t.lastRsp = s.lastRsp ∨ t.hostOut = s.hostOut ++ [t.lastRsp]) ∧
    commandCount t = commandCount s

/-- R26: PHASE changes only as its table says, and does change so: each of its events with the result it is
answered with and the PHASE it leaves, and no other change. -/
def Obligations.PhaseChangesByTable : Prop :=
  ∀ s t : State, step s = .next t →
    (Resets s → t.phase = .empty) ∧
    (∀ ks ivs, Accepts s (.construct ks ivs) →
      (ConstructSucceeds s ks ivs → t.phase = .constructed ∧ rspResult t.lastRsp = 0) ∧
      (¬ ConstructSucceeds s ks ivs →
        t.phase = s.phase ∧ (rspResult t.lastRsp = 3 ∨ rspResult t.lastRsp = 1))) ∧
    (Accepts s .init →
      (s.phase = .empty → t.phase = .empty ∧ rspResult t.lastRsp = 5) ∧
      (s.phase ≠ .empty → s.ivCount.toNat = s.ivSize.toNat / 8 →
        t.phase = .initializing ∧ t.hostOut = s.hostOut) ∧
      (s.phase ≠ .empty → s.ivCount.toNat ≠ s.ivSize.toNat / 8 →
        t.phase = .failed ∧ rspResult t.lastRsp = 2)) ∧
    (∀ d, Accepts s .ksByte ∨ Accepts s (.encryptByte d) ∨ Accepts s (.decryptByte d) →
      t.phase = s.phase ∧
      (s.phase = .keystreaming → t.pend = .byte) ∧
      (s.phase ≠ .keystreaming → rspResult t.lastRsp = 4)) ∧
    (s.pend = .byte → ¬ Resets s →
      t.phase = s.phase ∧ (s.bitCount = 7 → rspResult t.lastRsp = 0)) ∧
    (s.pend = .warmup → ¬ Resets s → s.warmCount = 255 →
      t.phase = .keystreaming ∧ t.lastRsp = 0x00043000#32) ∧
    (t.phase = s.phase ∨ Resets s ∨
      (∃ ks ivs, Accepts s (.construct ks ivs) ∧ ConstructSucceeds s ks ivs) ∨
      (Accepts s .init ∧ s.phase ≠ .empty) ∨ (s.pend = .warmup ∧ s.warmCount = 255))

/-- R20, R21, R109: the only writers of NFSR and LFSR. -/
def Obligations.RegistersHaveFourWriters : Prop :=
  ∀ s t : State, step s = .next t →
    t.regs = s.regs ∨
    (Resets s ∧ t.regs = { nfsr := 0, lfsr := 0 }) ∨
    (∃ ks ivs, Accepts s (.construct ks ivs) ∧ ConstructSucceeds s ks ivs ∧
      t.regs = { nfsr := 0, lfsr := 0 }) ∨
    (Accepts s .init ∧ s.phase ≠ .empty ∧ s.ivCount.toNat = s.ivSize.toNat / 8 ∧
      t.regs = { nfsr := loadNfsr s.key, lfsr := loadLfsr (s.ivSize.toNat / 8) s.ivBuf }) ∨
    (s.pend = .warmup ∧ t.regs = warmStep s.regs) ∨
    (s.pend = .byte ∧ t.regs = (cipherStep s.regs).2)

/-- R22, R23, R24: only a successful CONSTRUCT (or a reset) writes KEY, KEYSIZE and IVSIZE. -/
def Obligations.OnlyConstructWritesKey : Prop :=
  ∀ s t : State, step s = .next t →
    (t.key = s.key ∧ t.keySize = s.keySize ∧ t.ivSize = s.ivSize) ∨
    (Resets s ∧ (∀ (i : Nat) (h : i < 16), t.key[i] = 0) ∧ t.keySize = 0 ∧ t.ivSize = 0) ∨
    (∃ ks ivs, Accepts s (.construct ks ivs) ∧ ConstructSucceeds s ks ivs ∧
      t.key = s.keyBuf ∧ t.keySize = 128 ∧ t.ivSize = BitVec.ofNat 8 ivs.toNat)

/-- R37, R131: except in a byte command's steps, what the host sees after a step depends on no secret
content. Two states that differ only in the registers, the key, the buffers' bytes, the packed bits and
the pending operand stay so, and look alike to the host. -/
def Obligations.SecretsStayHidden : Prop :=
  ∀ s t s' t' : State, publicPart s = publicPart t → s.pend ≠ .byte →
    step s = .next s' → step t = .next t' →
    publicPart s' = publicPart t' ∧ hostView s' = hostView t'

/-- R37, R131, R210: a byte command's steps show the host nothing secret but the one output byte: the status
word, the number of answers and every field of the answer but DOUT agree, and so does everything public
but the answers; before the step that completes the command, the answers too. -/
def Obligations.ByteStepShowsOnlyDout : Prop :=
  ∀ s t s' t' : State, publicPart s = publicPart t → s.pend = .byte →
    step s = .next s' → step t = .next t' →
    statusWord s' = statusWord t' ∧ s'.lastRsp >>> 8 = t'.lastRsp >>> 8 ∧
    s'.hostOut.map (fun w : Word => w >>> 8) = t'.hostOut.map (fun w : Word => w >>> 8) ∧
    publicPart { s' with lastRsp := 0, hostOut := [] } =
      publicPart { t' with lastRsp := 0, hostOut := [] } ∧
    (s.bitCount ≠ 7 → publicPart s' = publicPart t' ∧ hostView s' = hostView t')

/-! ### The library operations and the boot sequence -/

/-- R157, R150: `keystream_bytes(n)` on an idle engine in KEYSTREAMING returns the next `n` bytes in order,
each from the eight steps after the one before it, and advances the registers by `8 * n` steps. -/
def Obligations.KeystreamBytesAreConsecutive : Prop :=
  ∀ (s : State) (n : Nat), s.pend = .none → s.phase = .keystreaming →
    ∃ t, keystreamBytes n s =
        (.ok ((List.range n).map (fun k => ksByteOf (cipherSteps (8 * k) s.regs))), t) ∧
      t.regs = cipherSteps (8 * n) s.regs ∧ t.phase = .keystreaming ∧ t.pend = .none

/-- R157, R158, R159: on an idle engine outside KEYSTREAMING the operations return NotInitialized, take no
step and leave the registers, the key and the buffers as they were, empty requests too. -/
def Obligations.LibraryNeedsKeystreaming : Prop :=
  ∀ (s : State) (n : Nat) (p : List Byte), s.pend = .none → s.phase ≠ .keystreaming →
    ∃ t u v : State,
      keystreamBytes n s = (.error .notInitialized, t) ∧
      encryptBytes p s = (.error .notInitialized, u) ∧
      decryptBytes p s = (.error .notInitialized, v) ∧
      ∀ x ∈ [t, u, v], x = { s with lastRsp := x.lastRsp, hostOut := x.hostOut }

/-- R162 (b): decrypting on an idle engine in the same cipher state gives back what an idle engine
encrypted, and the ciphertext has the plaintext's length (R158). -/
def Obligations.DecryptInvertsEncrypt : Prop :=
  ∀ (s s' : State) (p : List Byte), s.pend = .none → s'.pend = .none →
    s.phase = .keystreaming → s'.phase = .keystreaming → s'.regs = s.regs →
    ∃ (c : List Byte) (t t' : State),
      encryptBytes p s = (.ok c, t) ∧ c.length = p.length ∧ decryptBytes c s' = (.ok p, t') ∧
      t'.regs = t.regs

/-- R162 (c), R159: on an idle engine in any phase, encrypting zeros gives the keystream, and decrypting gives
the bytes encrypting would, with the same registers after. -/
def Obligations.EncryptZerosIsKeystream : Prop :=
  (∀ (s : State) (n : Nat), s.pend = .none →
    (encryptBytes (List.replicate n 0) s).1 = (keystreamBytes n s).1 ∧
    (encryptBytes (List.replicate n 0) s).2.regs = (keystreamBytes n s).2.regs) ∧
  (∀ (s : State) (b : List Byte), s.pend = .none →
    (decryptBytes b s).1 = (encryptBytes b s).1 ∧
    (decryptBytes b s).2.regs = (encryptBytes b s).2.regs)

/-- R160, R124: `construct` on an idle engine with an empty key buffer. Sizes with no encoding issue nothing;
otherwise the configuration is checked, then the key's length, exactly for every length, and a 16-byte
key is stored as given. -/
def Obligations.LibraryConstruct : Prop :=
  ∀ (s : State) (key : List Byte) (ks ivs : Nat), s.pend = .none → s.keyCount = 0 →
    ((ks % 8 ≠ 0 ∨ ivs % 8 ≠ 0 ∨ 2040 < ks ∨ 2040 < ivs) →
      libConstruct key ks ivs s = (.error .unsupportedConfiguration, s)) ∧
    (¬ (ks = 128 ∧ (ivs = 96 ∨ ivs = 128)) →
      (libConstruct key ks ivs s).1 = .error .unsupportedConfiguration) ∧
    (ks = 128 ∧ (ivs = 96 ∨ ivs = 128) → key.length ≠ 16 →
      (libConstruct key ks ivs s).1 = .error .invalidKeyLength ∧
      (libConstruct key ks ivs s).2.key = s.key ∧ (libConstruct key ks ivs s).2.phase = s.phase) ∧
    (ks = 128 ∧ (ivs = 96 ∨ ivs = 128) → key.length = 16 →
      ∃ t, libConstruct key ks ivs s = (.ok (), t) ∧ t.key.toList = key ∧ t.keySize = 128 ∧
        t.ivSize.toNat = ivs ∧ t.regs = { nfsr := 0, lfsr := 0 } ∧ t.phase = .constructed ∧
        t.keyCount = 0 ∧ t.pend = .none)

/-- R161, R127, R163: `initialize` on an idle, constructed engine with an empty IV buffer. A wrong length gives
InvalidIVLength and touches no register; a right one gives the registers that KEY and the IV alone
determine, whatever they held before, so the same IV restarts the same keystream. -/
def Obligations.LibraryInitialize : Prop :=
  ∀ (s : State) (iv : List Byte), s.pend = .none → s.phase ≠ .empty → s.ivCount = 0 →
    (s.ivSize = 96 ∨ s.ivSize = 128) →
    (iv.length ≠ s.ivSize.toNat / 8 →
      ∃ t, libInitialize iv s = (.error .invalidIvLength, t) ∧ t.phase = .failed ∧ t.regs = s.regs ∧
        t.key = s.key) ∧
    (iv.length = s.ivSize.toNat / 8 →
      ∃ t, libInitialize iv s = (.ok (), t) ∧ t.phase = .keystreaming ∧ t.key = s.key ∧
        t.ivCount = 0 ∧ t.warmCount = 256 ∧ t.pend = .none ∧
        t.regs = warmSteps 256
          { nfsr := loadNfsr s.key,
            lfsr := cellsOfBytes (iv ++ List.replicate (16 - iv.length) 0xFF) })

/-- R202, R83: the boot sequence SETUP from an idle engine with empty buffers, in any phase, ends in
KEYSTREAMING with the warmed-up registers of the key and the IV. -/
def Obligations.BootSequenceReachesKeystreaming : Prop :=
  ∀ (s : State) (key iv : List Byte), s.pend = .none → s.keyCount = 0 → s.ivCount = 0 →
    key.length = 16 → (iv.length = 12 ∨ iv.length = 16) →
    ∃ t, bootSequence key iv s = .ok t ∧ t.pend = .none ∧ t.phase = .keystreaming ∧ t.key.toList = key ∧
      t.lastRsp = 0x00043000#32 ∧
      t.regs = warmSteps 256
        { nfsr := cellsOfBytes key,
          lfsr := cellsOfBytes (iv ++ List.replicate (16 - iv.length) 0xFF) }

/-! ### The assembler and the platform -/

/-- R81: which sizes the assembler refuses, the word it emits for the others, and the rule's examples. -/
def Obligations.AssemblerEncodesConstruct : Prop :=
  (∀ ks ivs : Nat,
    ((∃ e, asmConstruct ks ivs = .error e) ↔ ks % 8 ≠ 0 ∨ ivs % 8 ≠ 0 ∨ 2040 < ks ∨ 2040 < ivs) ∧
    (∀ i, asmConstruct ks ivs = .ok i → WellFormed i ∧
      encode i = 3#32 ||| BitVec.ofNat 32 (ks / 8) <<< 16 ||| BitVec.ofNat 32 (ivs / 8) <<< 24)) ∧
  (asmConstruct 128 96).map encode = .ok 0x0C100003#32 ∧
  (asmConstruct 128 128).map encode = .ok 0x10100003#32 ∧
  (asmConstruct 64 96).map encode = .ok 0x0C080003#32

/-- R54, R55, log entry 5: which bytes are a word in each byte order, and that a word crosses a byte-wide bus
unchanged in either; four bytes are presented to the engine as the word they carry, behind what waits at
the port (log entry 1), and an access of any other size is refused. -/
def Obligations.BusCarriesWholeWords : Prop :=
  (∀ a b c d : Byte, wordOfBusBytes .little [a, b, c, d] = some (d ++ c ++ b ++ a) ∧
    wordOfBusBytes .big [a, b, c, d] = some (a ++ b ++ c ++ d)) ∧
  (∀ (o : ByteOrder) (w : Word), wordOfBusBytes o (busBytes o w) = some w) ∧
  (∀ (o : ByteOrder) (bs : List Byte), (∃ w, wordOfBusBytes o bs = some w) ↔ bs.length = 4) ∧
  (∀ (s : State) (w : Word), presentBytes (busBytes Config.busByteOrder w) s =
    .next { s with hostIn := s.hostIn ++ [.command w] }) ∧
  (∀ (s : State) (bs : List Byte), bs.length = 4 →
    ∃ w, wordOfBusBytes Config.busByteOrder bs = some w ∧
      presentBytes bs s = .next { s with hostIn := s.hostIn ++ [.command w] }) ∧
  (∀ (s : State) (bs : List Byte), bs.length ≠ 4 →
    presentBytes bs s = .refused .partialWordAccess)

/-- R64, R191: engines share no state. A step of one leaves every other as it was, and steps of two engines
give the same platform in either order. -/
def Obligations.EnginesAreIndependent : Prop :=
  (∀ (i j : Nat) (es fs : List State), stepEngine i es = .next fs → j ≠ i → fs[j]? = es[j]?) ∧
  (∀ (i j : Nat) (es fs gs : List State), i ≠ j →
    stepEngine i es = .next fs → stepEngine j fs = .next gs →
    ∃ hs, stepEngine j es = .next hs ∧ stepEngine i hs = .next gs)
end

