-- ==== Sys2Proof/Laws/Datapath.lean ====
section
/-! SUPPORT. The datapath cell by cell: what the shift, the fold, the packing and the loader leave in each
cell or bit. -/

namespace Sys2Proof.Machine

/-- Only cell 127 of `topCell` can be set. -/
@[simp] theorem topCell_getLsbD (b : Bool) (i : Nat) :
    (topCell b).getLsbD i = (decide (i = 127) && b) := by
  unfold topCell
  rcases lt_trichotomy i 127 with h | rfl | h
  · simp [BitVec.getLsbD_shiftLeft, h, Nat.ne_of_lt h]
  · simp
  · simp [Nat.ne_of_gt h, BitVec.getLsbD_of_ge _ _ (show 128 ≤ i by omega)]

/-- A shift brings each cell its upper neighbour, and cell 127 the new bit (R104). -/
theorem shiftIn_getLsbD (c : Cells) (b : Bool) (i : Nat) :
    (shiftIn c b).getLsbD i = if i = 127 then b else c.getLsbD (i + 1) := by
  rw [shiftIn, BitVec.getLsbD_or, topCell_getLsbD, BitVec.getLsbD_ushiftRight]
  by_cases h : i = 127
  · subst h; simp
  · simp [h, Nat.add_comm]

/-- A fold changes cell 127 only (R128). -/
theorem foldTop_getLsbD (c : Cells) (b : Bool) (i : Nat) :
    (foldTop c b).getLsbD i = if i = 127 then (c.getLsbD 127 ^^ b) else c.getLsbD i := by
  rw [foldTop, BitVec.getLsbD_xor, topCell_getLsbD]
  by_cases h : i = 127
  · subst h; simp
  · simp [h]

/-- Packing sets bit `k` only (R151). -/
theorem packBit_getLsbD (acc : Byte) (k : BitVec 4) (b : Bool) (i : Nat) (h : i < 8) :
    (packBit acc k b).getLsbD i = (acc.getLsbD i || (decide (i = k.toNat) && b)) := by
  unfold packBit
  rcases lt_trichotomy i k.toNat with g | g | g
  · simp [h, g, Nat.ne_of_lt g]
  · subst g; simp [h]
  · have : ¬ i < k.toNat := by omega
    have h2 : 1 ≤ i - k.toNat := by omega
    simp [h, this, Nat.ne_of_gt g, BitVec.getLsbD_ofBool, Nat.ne_of_gt h2]

/-- Bytes laid into cells: bit `j` of the `i`-th byte is cell `8 * i + j` (R51). -/
theorem cellsOfBytes_getLsbD (bs : List Byte) (i j : Nat) (hj : j < 8) (hi : i < 16) :
    (cellsOfBytes bs).getLsbD (8 * i + j) = (bs.getD i 0).getLsbD j := by
  induction bs generalizing i with
  | nil => simp [cellsOfBytes]
  | cons b bs ih =>
    cases i with
    | zero =>
      simp [cellsOfBytes, hj, show j < 128 by omega]
    | succ i =>
      have h1 : 8 * (i + 1) + j < 128 := by omega
      have h2 : ¬ 8 * (i + 1) + j < 8 := by omega
      have h3 : 8 * (i + 1) + j - 8 = 8 * i + j := by omega
      have h4 : b.getLsbD (8 * (i + 1) + j) = false := BitVec.getLsbD_of_ge _ _ (by omega)
      simp only [cellsOfBytes, BitVec.getLsbD_or, BitVec.getLsbD_shiftLeft, BitVec.getLsbD_setWidth,
        h1, h2, h3, h4]
      simpa using ih i (by omega)

/-- The bits of a byte packed from bits, in order (R52). -/
theorem byteOfBits_getLsbD (bs : List Bool) (k : Nat) (hk : k < 8) :
    (byteOfBits bs).getLsbD k = bs.getD k false := by
  induction bs generalizing k with
  | nil => simp [byteOfBits]
  | cons b bs ih =>
    cases k with
    | zero => simp [byteOfBits]
    | succ k =>
      have h := ih k (by omega)
      rw [byteOfBits, BitVec.getLsbD_or, BitVec.getLsbD_shiftLeft, Nat.add_sub_cancel, h]
      simp [hk]

/-- One more step at the end instead of at the start. -/
theorem cipherSteps_succ (k : Nat) (r : Regs) :
    cipherSteps (k + 1) r = (cipherStep (cipherSteps k r)).2 := by
  induction k generalizing r with
  | zero => rfl
  | succ k ih => rw [cipherSteps, ih]; rfl

/-- Steps compose. -/
theorem cipherSteps_add (j k : Nat) (r : Regs) :
    cipherSteps (j + k) r = cipherSteps k (cipherSteps j r) := by
  induction j generalizing r with
  | zero => simp [cipherSteps]
  | succ j ih => rw [Nat.succ_add, cipherSteps, ih]; rfl

/-- One more warm-up step at the end instead of at the start. -/
theorem warmSteps_succ (k : Nat) (r : Regs) : warmSteps (k + 1) r = warmStep (warmSteps k r) := by
  induction k generalizing r with
  | zero => rfl
  | succ k ih => rw [warmSteps, ih]; rfl

/-- The `k`-th keystream bit is the output of the `k`-th step (R150). -/
theorem keystreamBits_getD (n k : Nat) (h : k < n) (r : Regs) :
    (keystreamBits n r).getD k false = (cipherStep (cipherSteps k r)).1 := by
  induction n generalizing k r with
  | zero => omega
  | succ n ih =>
    cases k with
    | zero => rfl
    | succ k => simpa [keystreamBits, cipherSteps] using ih k (by omega) (cipherStep r).2

end Sys2Proof.Machine
end

