-- ==== Sys2Proof/Laws/Decode.lean ====
section
/-! SUPPORT. Command words: the fields of an assembled word, the sizes and their fields, and when each kind
of decoding succeeds. -/

namespace Sys2Proof

/-- An assembled word bit by bit (R70). -/
theorem assembleWord_getLsbD (o : BitVec 4) (d k v : BitVec 8) (i : Nat) :
    (assembleWord o d k v).getLsbD i =
      if i < 4 then o.getLsbD i
      else if i < 8 then false
      else if i < 16 then d.getLsbD (i - 8)
      else if i < 24 then k.getLsbD (i - 16)
      else v.getLsbD (i - 24) := by
  have e : (assembleWord o d k v).getLsbD i =
      BitVec.getLsbD (w := 8 + 8 + 8 + 4 + 4) (v ++ k ++ d ++ 0#4 ++ o) i := rfl
  rw [e]
  simp only [BitVec.getLsbD_append, BitVec.getLsbD_zero]
  split_ifs <;> first | rfl | omega

@[simp] theorem opcField_assembleWord (o : BitVec 4) (d k v : BitVec 8) :
    opcField (assembleWord o d k v) = o := by
  apply BitVec.eq_of_getLsbD_eq
  intro i hi
  rw [opcField, BitVec.getLsbD_extractLsb', assembleWord_getLsbD]
  simp only [hi, decide_true, Bool.true_and, Nat.zero_add, if_true]

@[simp] theorem rsvdField_assembleWord (o : BitVec 4) (d k v : BitVec 8) :
    rsvdField (assembleWord o d k v) = 0 := by
  apply BitVec.eq_of_getLsbD_eq
  intro i hi
  rw [rsvdField, BitVec.getLsbD_extractLsb', assembleWord_getLsbD]
  simp only [hi, show ¬ 4 + i < 4 by omega, show 4 + i < 8 by omega, decide_true, Bool.true_and,
    if_true, if_false, BitVec.ofNat_eq_ofNat, BitVec.getLsbD_zero]

@[simp] theorem data8_assembleWord (o : BitVec 4) (d k v : BitVec 8) :
    data8 (assembleWord o d k v) = d := by
  apply BitVec.eq_of_getLsbD_eq
  intro i hi
  rw [data8, BitVec.getLsbD_extractLsb', assembleWord_getLsbD]
  simp only [hi, show ¬ 8 + i < 4 by omega, show ¬ 8 + i < 8 by omega, show 8 + i < 16 by omega, decide_true, Bool.true_and,
    if_true, if_false, Nat.add_sub_cancel_left]

@[simp] theorem ksz8_assembleWord (o : BitVec 4) (d k v : BitVec 8) :
    ksz8 (assembleWord o d k v) = k := by
  apply BitVec.eq_of_getLsbD_eq
  intro i hi
  rw [ksz8, BitVec.getLsbD_extractLsb', assembleWord_getLsbD]
  simp only [hi, show ¬ 16 + i < 4 by omega, show ¬ 16 + i < 8 by omega, show ¬ 16 + i < 16 by omega, show 16 + i < 24 by omega, decide_true, Bool.true_and,
    if_true, if_false, Nat.add_sub_cancel_left]

@[simp] theorem ivsz8_assembleWord (o : BitVec 4) (d k v : BitVec 8) :
    ivsz8 (assembleWord o d k v) = v := by
  apply BitVec.eq_of_getLsbD_eq
  intro i hi
  rw [ivsz8, BitVec.getLsbD_extractLsb', assembleWord_getLsbD]
  simp only [hi, show ¬ 24 + i < 4 by omega, show ¬ 24 + i < 8 by omega, show ¬ 24 + i < 16 by omega, show ¬ 24 + i < 24 by omega, decide_true, Bool.true_and,
    if_false, Nat.add_sub_cancel_left]

/-- A word is put together from its five fields (R70). -/
theorem word_getLsbD (w : Word) (i : Nat) (hi : i < 32) :
    w.getLsbD i =
      if i < 4 then (opcField w).getLsbD i
      else if i < 8 then (rsvdField w).getLsbD (i - 4)
      else if i < 16 then (data8 w).getLsbD (i - 8)
      else if i < 24 then (ksz8 w).getLsbD (i - 16)
      else (ivsz8 w).getLsbD (i - 24) := by
  simp only [ivsz8, ksz8, data8, rsvdField, opcField, BitVec.getLsbD_extractLsb']
  split_ifs with h1 h2 h3 h4
  · simp [h1]
  · simp [show i - 4 < 4 by omega, show 4 + (i - 4) = i by omega]
  · simp [show i - 8 < 8 by omega, show 8 + (i - 8) = i by omega]
  · simp [show i - 16 < 8 by omega, show 16 + (i - 16) = i by omega]
  · simp [show i - 24 < 8 by omega, show 24 + (i - 24) = i by omega]

/-- Two words with the same five fields are the same word. -/
theorem word_ext (w v : Word) (h0 : opcField w = opcField v) (h1 : rsvdField w = rsvdField v)
    (h2 : data8 w = data8 v) (h3 : ksz8 w = ksz8 v) (h4 : ivsz8 w = ivsz8 v) : w = v := by
  apply BitVec.eq_of_getLsbD_eq
  intro i hi
  rw [word_getLsbD w i hi, word_getLsbD v i hi, h0, h1, h2, h3, h4]

/-- A field under a mask is the field under the mask's field. -/
theorem opcField_and (w m : Word) : opcField (w &&& m) = opcField w &&& opcField m := by
  apply BitVec.eq_of_getLsbD_eq
  intro i hi
  simp only [opcField, BitVec.getLsbD_and, BitVec.getLsbD_extractLsb', hi, decide_true, Bool.true_and]

/-- A field under a mask is the field under the mask's field. -/
theorem rsvdField_and (w m : Word) : rsvdField (w &&& m) = rsvdField w &&& rsvdField m := by
  apply BitVec.eq_of_getLsbD_eq
  intro i hi
  simp only [rsvdField, BitVec.getLsbD_and, BitVec.getLsbD_extractLsb', hi, decide_true, Bool.true_and]

/-- A field under a mask is the field under the mask's field. -/
theorem data8_and (w m : Word) : data8 (w &&& m) = data8 w &&& data8 m := by
  apply BitVec.eq_of_getLsbD_eq
  intro i hi
  simp only [data8, BitVec.getLsbD_and, BitVec.getLsbD_extractLsb', hi, decide_true, Bool.true_and]

/-- A field under a mask is the field under the mask's field. -/
theorem ksz8_and (w m : Word) : ksz8 (w &&& m) = ksz8 w &&& ksz8 m := by
  apply BitVec.eq_of_getLsbD_eq
  intro i hi
  simp only [ksz8, BitVec.getLsbD_and, BitVec.getLsbD_extractLsb', hi, decide_true, Bool.true_and]

/-- A field under a mask is the field under the mask's field. -/
theorem ivsz8_and (w m : Word) : ivsz8 (w &&& m) = ivsz8 w &&& ivsz8 m := by
  apply BitVec.eq_of_getLsbD_eq
  intro i hi
  simp only [ivsz8, BitVec.getLsbD_and, BitVec.getLsbD_extractLsb', hi, decide_true, Bool.true_and]

/-- A scaled size field is eight times it (R73). -/
theorem sizeBits_toNat (z : BitVec 8) : (sizeBits z).toNat = 8 * z.toNat := by
  have := z.isLt
  simp [sizeBits, Nat.shiftLeft_eq]
  omega

/-- The field of a size is the size divided by 8 (R81). -/
theorem sizeField_toNat (b : BitVec 11) : (sizeField b).toNat = b.toNat / 8 := by
  have := b.isLt
  simp [sizeField, Nat.shiftRight_eq_div_pow]
  omega

/-- A size field survives scaling. -/
@[simp] theorem sizeField_sizeBits (z : BitVec 8) : sizeField (sizeBits z) = z := by
  apply BitVec.eq_of_toNat_eq
  rw [sizeField_toNat, sizeBits_toNat]
  omega

/-- An encodable size survives its field (R73). -/
theorem sizeBits_sizeField (b : BitVec 11) (h : SizeEncodable b) : sizeBits (sizeField b) = b := by
  apply BitVec.eq_of_toNat_eq
  rw [sizeBits_toNat, sizeField_toNat]
  unfold SizeEncodable at h
  omega

/-- When a command with no operand is read (R74). -/
theorem decodePlain_ok_iff (w : Word) (i j : Instr) :
    decodePlain w i = .ok j ↔ data8 w = 0#8 ∧ ksz8 w = 0#8 ∧ ivsz8 w = 0#8 ∧ j = i := by
  by_cases h1 : data8 w = 0#8 <;> by_cases h2 : ksz8 w = 0#8 <;> by_cases h3 : ivsz8 w = 0#8 <;>
    simp [decodePlain, h1, h2, h3]
  exact eq_comm

/-- When a command with a byte operand is read (R74). -/
theorem decodeByte_ok_iff (w : Word) (i : Byte → Instr) (j : Instr) :
    decodeByte w i = .ok j ↔ ksz8 w = 0#8 ∧ ivsz8 w = 0#8 ∧ j = i (data8 w) := by
  by_cases h2 : ksz8 w = 0#8 <;> by_cases h3 : ivsz8 w = 0#8 <;> simp [decodeByte, h2, h3]
  exact eq_comm

/-- When CONSTRUCT is read (R74). -/
theorem decodeConstruct_ok_iff (w : Word) (j : Instr) :
    decodeConstruct w = .ok j ↔
      data8 w = 0#8 ∧ j = .construct (sizeBits (ksz8 w)) (sizeBits (ivsz8 w)) := by
  by_cases h1 : data8 w = 0#8 <;> simp [decodeConstruct, h1]
  exact eq_comm

end Sys2Proof
end

