-- ==== Sys2Proof/Laws/Flags.lean ====
section
/-! SUPPORT. The response and status words bit by bit, and their codes read back (R76, R77, R180). -/

namespace Sys2Proof.Machine

/-- A response word bit by bit (R76). -/
theorem responseWord_getLsbD (opc : BitVec 4) (p : Phase) (r : Result) (d : Byte) (i : Nat) :
    (responseWord opc p r d).getLsbD i =
      if i < 8 then d.getLsbD i
      else if i < 12 then r.code.getLsbD (i - 8)
      else if i < 15 then p.code.getLsbD (i - 12)
      else if i < 16 then false
      else if i < 20 then opc.getLsbD (i - 16)
      else false := by
  have e : (responseWord opc p r d).getLsbD i =
      BitVec.getLsbD (w := 12 + 4 + 1 + 3 + 4 + 8) (0#12 ++ opc ++ 0#1 ++ p.code ++ r.code ++ d) i :=
    rfl
  rw [e]
  simp only [BitVec.getLsbD_append, BitVec.getLsbD_zero]
  split_ifs <;> first | rfl | omega

/-- The status word bit by bit (R77). -/
theorem statusWord_getLsbD (s : State) (i : Nat) :
    (statusWord s).getLsbD i =
      if i < 3 then s.phase.code.getLsbD i
      else if i < 4 then s.busy
      else if i < 8 then false
      else if i < 16 then s.keyCount.getLsbD (i - 8)
      else if i < 24 then s.ivCount.getLsbD (i - 16)
      else false := by
  have e : (statusWord s).getLsbD i =
      BitVec.getLsbD (w := 8 + 8 + 8 + 4 + 1 + 3)
        (0#8 ++ s.ivCount ++ s.keyCount ++ 0#4 ++ BitVec.ofBool s.busy ++ s.phase.code) i := rfl
  rw [e]
  simp only [BitVec.getLsbD_append, BitVec.getLsbD_zero, BitVec.getLsbD_ofBool]
  split_ifs <;> first | rfl | omega | (simp; omega)

/-- RESULT read back from a response word (R76). -/
@[simp] theorem rspResult_responseWord (opc : BitVec 4) (p : Phase) (r : Result) (d : Byte) :
    rspResult (responseWord opc p r d) = r.code := by
  apply BitVec.eq_of_getLsbD_eq
  intro i hi
  rw [rspResult, BitVec.getLsbD_extractLsb', responseWord_getLsbD]
  simp only [hi, show ¬ 8 + i < 8 by omega, show 8 + i < 12 by omega, decide_true, Bool.true_and,
    if_true, if_false, Nat.add_sub_cancel_left]

/-- DOUT read back from a response word (R76). -/
@[simp] theorem rspDout_responseWord (opc : BitVec 4) (p : Phase) (r : Result) (d : Byte) :
    rspDout (responseWord opc p r d) = d := by
  apply BitVec.eq_of_getLsbD_eq
  intro i hi
  rw [rspDout, BitVec.getLsbD_extractLsb', responseWord_getLsbD]
  simp only [hi, Nat.zero_add, decide_true, Bool.true_and, if_true]

/-- A result is named by its code (R180). -/
@[simp] theorem ofCode_code (r : Result) : Result.ofCode r.code = some r := by
  cases r <;> rfl

/-- The phases have different codes (R25). -/
theorem phase_code_injective (p q : Phase) (h : p.code = q.code) : p = q := by
  cases p <;> cases q <;> first | rfl | exact absurd h (by decide)

end Sys2Proof.Machine
end

