-- ==== Sys2Proof/Laws/State.lean ====
section
/-! SUPPORT. What each state update leaves in each field: one lemma per field per update, true by rfl. -/

namespace Sys2Proof.Machine

/-! ### Both registers written -/

@[simp] theorem setRegs_nfsr (s : State) (r : Regs) : (s.setRegs r).nfsr = r.nfsr := rfl
@[simp] theorem setRegs_lfsr (s : State) (r : Regs) : (s.setRegs r).lfsr = r.lfsr := rfl
@[simp] theorem setRegs_key (s : State) (r : Regs) : (s.setRegs r).key = s.key := rfl
@[simp] theorem setRegs_keySize (s : State) (r : Regs) : (s.setRegs r).keySize = s.keySize := rfl
@[simp] theorem setRegs_ivSize (s : State) (r : Regs) : (s.setRegs r).ivSize = s.ivSize := rfl
@[simp] theorem setRegs_phase (s : State) (r : Regs) : (s.setRegs r).phase = s.phase := rfl
@[simp] theorem setRegs_keyBuf (s : State) (r : Regs) : (s.setRegs r).keyBuf = s.keyBuf := rfl
@[simp] theorem setRegs_keyCount (s : State) (r : Regs) : (s.setRegs r).keyCount = s.keyCount := rfl
@[simp] theorem setRegs_ivBuf (s : State) (r : Regs) : (s.setRegs r).ivBuf = s.ivBuf := rfl
@[simp] theorem setRegs_ivCount (s : State) (r : Regs) : (s.setRegs r).ivCount = s.ivCount := rfl
@[simp] theorem setRegs_warmCount (s : State) (r : Regs) : (s.setRegs r).warmCount = s.warmCount := rfl
@[simp] theorem setRegs_pend (s : State) (r : Regs) : (s.setRegs r).pend = s.pend := rfl
@[simp] theorem setRegs_pendOpc (s : State) (r : Regs) : (s.setRegs r).pendOpc = s.pendOpc := rfl
@[simp] theorem setRegs_pendData (s : State) (r : Regs) : (s.setRegs r).pendData = s.pendData := rfl
@[simp] theorem setRegs_acc (s : State) (r : Regs) : (s.setRegs r).acc = s.acc := rfl
@[simp] theorem setRegs_bitCount (s : State) (r : Regs) : (s.setRegs r).bitCount = s.bitCount := rfl
@[simp] theorem setRegs_lastRsp (s : State) (r : Regs) : (s.setRegs r).lastRsp = s.lastRsp := rfl
@[simp] theorem setRegs_hostIn (s : State) (r : Regs) : (s.setRegs r).hostIn = s.hostIn := rfl
@[simp] theorem setRegs_hostOut (s : State) (r : Regs) : (s.setRegs r).hostOut = s.hostOut := rfl

/-! ### The completion of a command -/

@[simp] theorem respond_nfsr (opc : BitVec 4) (r : Result) (d : Byte) (s : State) : (respond opc r d s).nfsr = s.nfsr := rfl
@[simp] theorem respond_lfsr (opc : BitVec 4) (r : Result) (d : Byte) (s : State) : (respond opc r d s).lfsr = s.lfsr := rfl
@[simp] theorem respond_key (opc : BitVec 4) (r : Result) (d : Byte) (s : State) : (respond opc r d s).key = s.key := rfl
@[simp] theorem respond_keySize (opc : BitVec 4) (r : Result) (d : Byte) (s : State) : (respond opc r d s).keySize = s.keySize := rfl
@[simp] theorem respond_ivSize (opc : BitVec 4) (r : Result) (d : Byte) (s : State) : (respond opc r d s).ivSize = s.ivSize := rfl
@[simp] theorem respond_phase (opc : BitVec 4) (r : Result) (d : Byte) (s : State) : (respond opc r d s).phase = s.phase := rfl
@[simp] theorem respond_keyBuf (opc : BitVec 4) (r : Result) (d : Byte) (s : State) : (respond opc r d s).keyBuf = s.keyBuf := rfl
@[simp] theorem respond_keyCount (opc : BitVec 4) (r : Result) (d : Byte) (s : State) : (respond opc r d s).keyCount = s.keyCount := rfl
@[simp] theorem respond_ivBuf (opc : BitVec 4) (r : Result) (d : Byte) (s : State) : (respond opc r d s).ivBuf = s.ivBuf := rfl
@[simp] theorem respond_ivCount (opc : BitVec 4) (r : Result) (d : Byte) (s : State) : (respond opc r d s).ivCount = s.ivCount := rfl
@[simp] theorem respond_warmCount (opc : BitVec 4) (r : Result) (d : Byte) (s : State) : (respond opc r d s).warmCount = s.warmCount := rfl
@[simp] theorem respond_pend (opc : BitVec 4) (r : Result) (d : Byte) (s : State) : (respond opc r d s).pend = s.pend := rfl
@[simp] theorem respond_pendOpc (opc : BitVec 4) (r : Result) (d : Byte) (s : State) : (respond opc r d s).pendOpc = s.pendOpc := rfl
@[simp] theorem respond_pendData (opc : BitVec 4) (r : Result) (d : Byte) (s : State) : (respond opc r d s).pendData = s.pendData := rfl
@[simp] theorem respond_acc (opc : BitVec 4) (r : Result) (d : Byte) (s : State) : (respond opc r d s).acc = s.acc := rfl
@[simp] theorem respond_bitCount (opc : BitVec 4) (r : Result) (d : Byte) (s : State) : (respond opc r d s).bitCount = s.bitCount := rfl
@[simp] theorem respond_lastRsp (opc : BitVec 4) (r : Result) (d : Byte) (s : State) : (respond opc r d s).lastRsp = responseWord opc s.phase r d := rfl
@[simp] theorem respond_hostIn (opc : BitVec 4) (r : Result) (d : Byte) (s : State) : (respond opc r d s).hostIn = s.hostIn := rfl
@[simp] theorem respond_hostOut (opc : BitVec 4) (r : Result) (d : Byte) (s : State) : (respond opc r d s).hostOut = s.hostOut ++ [responseWord opc s.phase r d] := rfl

/-! ### A completion as statements say it -/

@[simp] theorem answered_nfsr (s : State) (w : Word) : (s.answered w).nfsr = s.nfsr := rfl
@[simp] theorem answered_lfsr (s : State) (w : Word) : (s.answered w).lfsr = s.lfsr := rfl
@[simp] theorem answered_key (s : State) (w : Word) : (s.answered w).key = s.key := rfl
@[simp] theorem answered_keySize (s : State) (w : Word) : (s.answered w).keySize = s.keySize := rfl
@[simp] theorem answered_ivSize (s : State) (w : Word) : (s.answered w).ivSize = s.ivSize := rfl
@[simp] theorem answered_phase (s : State) (w : Word) : (s.answered w).phase = s.phase := rfl
@[simp] theorem answered_keyBuf (s : State) (w : Word) : (s.answered w).keyBuf = s.keyBuf := rfl
@[simp] theorem answered_keyCount (s : State) (w : Word) : (s.answered w).keyCount = s.keyCount := rfl
@[simp] theorem answered_ivBuf (s : State) (w : Word) : (s.answered w).ivBuf = s.ivBuf := rfl
@[simp] theorem answered_ivCount (s : State) (w : Word) : (s.answered w).ivCount = s.ivCount := rfl
@[simp] theorem answered_warmCount (s : State) (w : Word) : (s.answered w).warmCount = s.warmCount := rfl
@[simp] theorem answered_pend (s : State) (w : Word) : (s.answered w).pend = s.pend := rfl
@[simp] theorem answered_pendOpc (s : State) (w : Word) : (s.answered w).pendOpc = s.pendOpc := rfl
@[simp] theorem answered_pendData (s : State) (w : Word) : (s.answered w).pendData = s.pendData := rfl
@[simp] theorem answered_acc (s : State) (w : Word) : (s.answered w).acc = s.acc := rfl
@[simp] theorem answered_bitCount (s : State) (w : Word) : (s.answered w).bitCount = s.bitCount := rfl
@[simp] theorem answered_lastRsp (s : State) (w : Word) : (s.answered w).lastRsp = w := rfl
@[simp] theorem answered_hostIn (s : State) (w : Word) : (s.answered w).hostIn = s.hostIn := rfl
@[simp] theorem answered_hostOut (s : State) (w : Word) : (s.answered w).hostOut = s.hostOut ++ [w] := rfl

/-! ### A key byte pushed -/

@[simp] theorem pushKey_nfsr (d : Byte) (s : State) : (pushKey d s).nfsr = s.nfsr := rfl
@[simp] theorem pushKey_lfsr (d : Byte) (s : State) : (pushKey d s).lfsr = s.lfsr := rfl
@[simp] theorem pushKey_key (d : Byte) (s : State) : (pushKey d s).key = s.key := rfl
@[simp] theorem pushKey_keySize (d : Byte) (s : State) : (pushKey d s).keySize = s.keySize := rfl
@[simp] theorem pushKey_ivSize (d : Byte) (s : State) : (pushKey d s).ivSize = s.ivSize := rfl
@[simp] theorem pushKey_phase (d : Byte) (s : State) : (pushKey d s).phase = s.phase := rfl
@[simp] theorem pushKey_keyBuf (d : Byte) (s : State) : (pushKey d s).keyBuf = pushByte s.keyBuf s.keyCount d := rfl
@[simp] theorem pushKey_keyCount (d : Byte) (s : State) : (pushKey d s).keyCount = satInc s.keyCount := rfl
@[simp] theorem pushKey_ivBuf (d : Byte) (s : State) : (pushKey d s).ivBuf = s.ivBuf := rfl
@[simp] theorem pushKey_ivCount (d : Byte) (s : State) : (pushKey d s).ivCount = s.ivCount := rfl
@[simp] theorem pushKey_warmCount (d : Byte) (s : State) : (pushKey d s).warmCount = s.warmCount := rfl
@[simp] theorem pushKey_pend (d : Byte) (s : State) : (pushKey d s).pend = s.pend := rfl
@[simp] theorem pushKey_pendOpc (d : Byte) (s : State) : (pushKey d s).pendOpc = s.pendOpc := rfl
@[simp] theorem pushKey_pendData (d : Byte) (s : State) : (pushKey d s).pendData = s.pendData := rfl
@[simp] theorem pushKey_acc (d : Byte) (s : State) : (pushKey d s).acc = s.acc := rfl
@[simp] theorem pushKey_bitCount (d : Byte) (s : State) : (pushKey d s).bitCount = s.bitCount := rfl
@[simp] theorem pushKey_lastRsp (d : Byte) (s : State) : (pushKey d s).lastRsp = s.lastRsp := rfl
@[simp] theorem pushKey_hostIn (d : Byte) (s : State) : (pushKey d s).hostIn = s.hostIn := rfl
@[simp] theorem pushKey_hostOut (d : Byte) (s : State) : (pushKey d s).hostOut = s.hostOut := rfl

/-! ### An IV byte pushed -/

@[simp] theorem pushIv_nfsr (d : Byte) (s : State) : (pushIv d s).nfsr = s.nfsr := rfl
@[simp] theorem pushIv_lfsr (d : Byte) (s : State) : (pushIv d s).lfsr = s.lfsr := rfl
@[simp] theorem pushIv_key (d : Byte) (s : State) : (pushIv d s).key = s.key := rfl
@[simp] theorem pushIv_keySize (d : Byte) (s : State) : (pushIv d s).keySize = s.keySize := rfl
@[simp] theorem pushIv_ivSize (d : Byte) (s : State) : (pushIv d s).ivSize = s.ivSize := rfl
@[simp] theorem pushIv_phase (d : Byte) (s : State) : (pushIv d s).phase = s.phase := rfl
@[simp] theorem pushIv_keyBuf (d : Byte) (s : State) : (pushIv d s).keyBuf = s.keyBuf := rfl
@[simp] theorem pushIv_keyCount (d : Byte) (s : State) : (pushIv d s).keyCount = s.keyCount := rfl
@[simp] theorem pushIv_ivBuf (d : Byte) (s : State) : (pushIv d s).ivBuf = pushByte s.ivBuf s.ivCount d := rfl
@[simp] theorem pushIv_ivCount (d : Byte) (s : State) : (pushIv d s).ivCount = satInc s.ivCount := rfl
@[simp] theorem pushIv_warmCount (d : Byte) (s : State) : (pushIv d s).warmCount = s.warmCount := rfl
@[simp] theorem pushIv_pend (d : Byte) (s : State) : (pushIv d s).pend = s.pend := rfl
@[simp] theorem pushIv_pendOpc (d : Byte) (s : State) : (pushIv d s).pendOpc = s.pendOpc := rfl
@[simp] theorem pushIv_pendData (d : Byte) (s : State) : (pushIv d s).pendData = s.pendData := rfl
@[simp] theorem pushIv_acc (d : Byte) (s : State) : (pushIv d s).acc = s.acc := rfl
@[simp] theorem pushIv_bitCount (d : Byte) (s : State) : (pushIv d s).bitCount = s.bitCount := rfl
@[simp] theorem pushIv_lastRsp (d : Byte) (s : State) : (pushIv d s).lastRsp = s.lastRsp := rfl
@[simp] theorem pushIv_hostIn (d : Byte) (s : State) : (pushIv d s).hostIn = s.hostIn := rfl
@[simp] theorem pushIv_hostOut (d : Byte) (s : State) : (pushIv d s).hostOut = s.hostOut := rfl

/-! ### The key buffer cleared -/

@[simp] theorem clearKeyBuf_nfsr (s : State) : (clearKeyBuf s).nfsr = s.nfsr := rfl
@[simp] theorem clearKeyBuf_lfsr (s : State) : (clearKeyBuf s).lfsr = s.lfsr := rfl
@[simp] theorem clearKeyBuf_key (s : State) : (clearKeyBuf s).key = s.key := rfl
@[simp] theorem clearKeyBuf_keySize (s : State) : (clearKeyBuf s).keySize = s.keySize := rfl
@[simp] theorem clearKeyBuf_ivSize (s : State) : (clearKeyBuf s).ivSize = s.ivSize := rfl
@[simp] theorem clearKeyBuf_phase (s : State) : (clearKeyBuf s).phase = s.phase := rfl
@[simp] theorem clearKeyBuf_keyBuf (s : State) : (clearKeyBuf s).keyBuf = zeroBlock := rfl
@[simp] theorem clearKeyBuf_keyCount (s : State) : (clearKeyBuf s).keyCount = 0 := rfl
@[simp] theorem clearKeyBuf_ivBuf (s : State) : (clearKeyBuf s).ivBuf = s.ivBuf := rfl
@[simp] theorem clearKeyBuf_ivCount (s : State) : (clearKeyBuf s).ivCount = s.ivCount := rfl
@[simp] theorem clearKeyBuf_warmCount (s : State) : (clearKeyBuf s).warmCount = s.warmCount := rfl
@[simp] theorem clearKeyBuf_pend (s : State) : (clearKeyBuf s).pend = s.pend := rfl
@[simp] theorem clearKeyBuf_pendOpc (s : State) : (clearKeyBuf s).pendOpc = s.pendOpc := rfl
@[simp] theorem clearKeyBuf_pendData (s : State) : (clearKeyBuf s).pendData = s.pendData := rfl
@[simp] theorem clearKeyBuf_acc (s : State) : (clearKeyBuf s).acc = s.acc := rfl
@[simp] theorem clearKeyBuf_bitCount (s : State) : (clearKeyBuf s).bitCount = s.bitCount := rfl
@[simp] theorem clearKeyBuf_lastRsp (s : State) : (clearKeyBuf s).lastRsp = s.lastRsp := rfl
@[simp] theorem clearKeyBuf_hostIn (s : State) : (clearKeyBuf s).hostIn = s.hostIn := rfl
@[simp] theorem clearKeyBuf_hostOut (s : State) : (clearKeyBuf s).hostOut = s.hostOut := rfl

/-! ### The IV buffer cleared -/

@[simp] theorem clearIvBuf_nfsr (s : State) : (clearIvBuf s).nfsr = s.nfsr := rfl
@[simp] theorem clearIvBuf_lfsr (s : State) : (clearIvBuf s).lfsr = s.lfsr := rfl
@[simp] theorem clearIvBuf_key (s : State) : (clearIvBuf s).key = s.key := rfl
@[simp] theorem clearIvBuf_keySize (s : State) : (clearIvBuf s).keySize = s.keySize := rfl
@[simp] theorem clearIvBuf_ivSize (s : State) : (clearIvBuf s).ivSize = s.ivSize := rfl
@[simp] theorem clearIvBuf_phase (s : State) : (clearIvBuf s).phase = s.phase := rfl
@[simp] theorem clearIvBuf_keyBuf (s : State) : (clearIvBuf s).keyBuf = s.keyBuf := rfl
@[simp] theorem clearIvBuf_keyCount (s : State) : (clearIvBuf s).keyCount = s.keyCount := rfl
@[simp] theorem clearIvBuf_ivBuf (s : State) : (clearIvBuf s).ivBuf = zeroBlock := rfl
@[simp] theorem clearIvBuf_ivCount (s : State) : (clearIvBuf s).ivCount = 0 := rfl
@[simp] theorem clearIvBuf_warmCount (s : State) : (clearIvBuf s).warmCount = s.warmCount := rfl
@[simp] theorem clearIvBuf_pend (s : State) : (clearIvBuf s).pend = s.pend := rfl
@[simp] theorem clearIvBuf_pendOpc (s : State) : (clearIvBuf s).pendOpc = s.pendOpc := rfl
@[simp] theorem clearIvBuf_pendData (s : State) : (clearIvBuf s).pendData = s.pendData := rfl
@[simp] theorem clearIvBuf_acc (s : State) : (clearIvBuf s).acc = s.acc := rfl
@[simp] theorem clearIvBuf_bitCount (s : State) : (clearIvBuf s).bitCount = s.bitCount := rfl
@[simp] theorem clearIvBuf_lastRsp (s : State) : (clearIvBuf s).lastRsp = s.lastRsp := rfl
@[simp] theorem clearIvBuf_hostIn (s : State) : (clearIvBuf s).hostIn = s.hostIn := rfl
@[simp] theorem clearIvBuf_hostOut (s : State) : (clearIvBuf s).hostOut = s.hostOut := rfl

/-! ### The loader -/

@[simp] theorem loadRegs_nfsr (s : State) : (loadRegs s).nfsr = loadNfsr s.key := rfl
@[simp] theorem loadRegs_lfsr (s : State) : (loadRegs s).lfsr = loadLfsr (ivBytes s.ivSize) s.ivBuf := rfl
@[simp] theorem loadRegs_key (s : State) : (loadRegs s).key = s.key := rfl
@[simp] theorem loadRegs_keySize (s : State) : (loadRegs s).keySize = s.keySize := rfl
@[simp] theorem loadRegs_ivSize (s : State) : (loadRegs s).ivSize = s.ivSize := rfl
@[simp] theorem loadRegs_phase (s : State) : (loadRegs s).phase = s.phase := rfl
@[simp] theorem loadRegs_keyBuf (s : State) : (loadRegs s).keyBuf = s.keyBuf := rfl
@[simp] theorem loadRegs_keyCount (s : State) : (loadRegs s).keyCount = s.keyCount := rfl
@[simp] theorem loadRegs_ivBuf (s : State) : (loadRegs s).ivBuf = s.ivBuf := rfl
@[simp] theorem loadRegs_ivCount (s : State) : (loadRegs s).ivCount = s.ivCount := rfl
@[simp] theorem loadRegs_warmCount (s : State) : (loadRegs s).warmCount = s.warmCount := rfl
@[simp] theorem loadRegs_pend (s : State) : (loadRegs s).pend = s.pend := rfl
@[simp] theorem loadRegs_pendOpc (s : State) : (loadRegs s).pendOpc = s.pendOpc := rfl
@[simp] theorem loadRegs_pendData (s : State) : (loadRegs s).pendData = s.pendData := rfl
@[simp] theorem loadRegs_acc (s : State) : (loadRegs s).acc = s.acc := rfl
@[simp] theorem loadRegs_bitCount (s : State) : (loadRegs s).bitCount = s.bitCount := rfl
@[simp] theorem loadRegs_lastRsp (s : State) : (loadRegs s).lastRsp = s.lastRsp := rfl
@[simp] theorem loadRegs_hostIn (s : State) : (loadRegs s).hostIn = s.hostIn := rfl
@[simp] theorem loadRegs_hostOut (s : State) : (loadRegs s).hostOut = s.hostOut := rfl

/-! ### A new CipherState -/

@[simp] theorem constructed_nfsr (v : BitVec 11) (s : State) : (constructed v s).nfsr = 0 := rfl
@[simp] theorem constructed_lfsr (v : BitVec 11) (s : State) : (constructed v s).lfsr = 0 := rfl
@[simp] theorem constructed_key (v : BitVec 11) (s : State) : (constructed v s).key = s.keyBuf := rfl
@[simp] theorem constructed_keySize (v : BitVec 11) (s : State) : (constructed v s).keySize = 128 := rfl
@[simp] theorem constructed_ivSize (v : BitVec 11) (s : State) : (constructed v s).ivSize = v.setWidth 8 := rfl
@[simp] theorem constructed_phase (v : BitVec 11) (s : State) : (constructed v s).phase = .constructed := rfl
@[simp] theorem constructed_keyBuf (v : BitVec 11) (s : State) : (constructed v s).keyBuf = s.keyBuf := rfl
@[simp] theorem constructed_keyCount (v : BitVec 11) (s : State) : (constructed v s).keyCount = s.keyCount := rfl
@[simp] theorem constructed_ivBuf (v : BitVec 11) (s : State) : (constructed v s).ivBuf = s.ivBuf := rfl
@[simp] theorem constructed_ivCount (v : BitVec 11) (s : State) : (constructed v s).ivCount = s.ivCount := rfl
@[simp] theorem constructed_warmCount (v : BitVec 11) (s : State) : (constructed v s).warmCount = s.warmCount := rfl
@[simp] theorem constructed_pend (v : BitVec 11) (s : State) : (constructed v s).pend = s.pend := rfl
@[simp] theorem constructed_pendOpc (v : BitVec 11) (s : State) : (constructed v s).pendOpc = s.pendOpc := rfl
@[simp] theorem constructed_pendData (v : BitVec 11) (s : State) : (constructed v s).pendData = s.pendData := rfl
@[simp] theorem constructed_acc (v : BitVec 11) (s : State) : (constructed v s).acc = s.acc := rfl
@[simp] theorem constructed_bitCount (v : BitVec 11) (s : State) : (constructed v s).bitCount = s.bitCount := rfl
@[simp] theorem constructed_lastRsp (v : BitVec 11) (s : State) : (constructed v s).lastRsp = s.lastRsp := rfl
@[simp] theorem constructed_hostIn (v : BitVec 11) (s : State) : (constructed v s).hostIn = s.hostIn := rfl
@[simp] theorem constructed_hostOut (v : BitVec 11) (s : State) : (constructed v s).hostOut = s.hostOut := rfl

/-! ### A failed INITIALIZE -/

@[simp] theorem failInit_nfsr (s : State) : (failInit s).nfsr = s.nfsr := rfl
@[simp] theorem failInit_lfsr (s : State) : (failInit s).lfsr = s.lfsr := rfl
@[simp] theorem failInit_key (s : State) : (failInit s).key = s.key := rfl
@[simp] theorem failInit_keySize (s : State) : (failInit s).keySize = s.keySize := rfl
@[simp] theorem failInit_ivSize (s : State) : (failInit s).ivSize = s.ivSize := rfl
@[simp] theorem failInit_phase (s : State) : (failInit s).phase = .failed := rfl
@[simp] theorem failInit_keyBuf (s : State) : (failInit s).keyBuf = s.keyBuf := rfl
@[simp] theorem failInit_keyCount (s : State) : (failInit s).keyCount = s.keyCount := rfl
@[simp] theorem failInit_ivBuf (s : State) : (failInit s).ivBuf = zeroBlock := rfl
@[simp] theorem failInit_ivCount (s : State) : (failInit s).ivCount = 0 := rfl
@[simp] theorem failInit_warmCount (s : State) : (failInit s).warmCount = s.warmCount := rfl
@[simp] theorem failInit_pend (s : State) : (failInit s).pend = s.pend := rfl
@[simp] theorem failInit_pendOpc (s : State) : (failInit s).pendOpc = s.pendOpc := rfl
@[simp] theorem failInit_pendData (s : State) : (failInit s).pendData = s.pendData := rfl
@[simp] theorem failInit_acc (s : State) : (failInit s).acc = s.acc := rfl
@[simp] theorem failInit_bitCount (s : State) : (failInit s).bitCount = s.bitCount := rfl
@[simp] theorem failInit_lastRsp (s : State) : (failInit s).lastRsp = s.lastRsp := rfl
@[simp] theorem failInit_hostIn (s : State) : (failInit s).hostIn = s.hostIn := rfl
@[simp] theorem failInit_hostOut (s : State) : (failInit s).hostOut = s.hostOut := rfl

/-! ### A warm-up engine step before its completion -/

@[simp] theorem warmupAdvance_nfsr (s : State) : (warmupAdvance s).nfsr = (warmStep s.regs).nfsr := rfl
@[simp] theorem warmupAdvance_lfsr (s : State) : (warmupAdvance s).lfsr = (warmStep s.regs).lfsr := rfl
@[simp] theorem warmupAdvance_key (s : State) : (warmupAdvance s).key = s.key := rfl
@[simp] theorem warmupAdvance_keySize (s : State) : (warmupAdvance s).keySize = s.keySize := rfl
@[simp] theorem warmupAdvance_ivSize (s : State) : (warmupAdvance s).ivSize = s.ivSize := rfl
@[simp] theorem warmupAdvance_phase (s : State) : (warmupAdvance s).phase = s.phase := rfl
@[simp] theorem warmupAdvance_keyBuf (s : State) : (warmupAdvance s).keyBuf = s.keyBuf := rfl
@[simp] theorem warmupAdvance_keyCount (s : State) : (warmupAdvance s).keyCount = s.keyCount := rfl
@[simp] theorem warmupAdvance_ivBuf (s : State) : (warmupAdvance s).ivBuf = s.ivBuf := rfl
@[simp] theorem warmupAdvance_ivCount (s : State) : (warmupAdvance s).ivCount = s.ivCount := rfl
@[simp] theorem warmupAdvance_warmCount (s : State) : (warmupAdvance s).warmCount = s.warmCount + 1 := rfl
@[simp] theorem warmupAdvance_pend (s : State) : (warmupAdvance s).pend = s.pend := rfl
@[simp] theorem warmupAdvance_pendOpc (s : State) : (warmupAdvance s).pendOpc = s.pendOpc := rfl
@[simp] theorem warmupAdvance_pendData (s : State) : (warmupAdvance s).pendData = s.pendData := rfl
@[simp] theorem warmupAdvance_acc (s : State) : (warmupAdvance s).acc = s.acc := rfl
@[simp] theorem warmupAdvance_bitCount (s : State) : (warmupAdvance s).bitCount = s.bitCount := rfl
@[simp] theorem warmupAdvance_lastRsp (s : State) : (warmupAdvance s).lastRsp = s.lastRsp := rfl
@[simp] theorem warmupAdvance_hostIn (s : State) : (warmupAdvance s).hostIn = s.hostIn := rfl
@[simp] theorem warmupAdvance_hostOut (s : State) : (warmupAdvance s).hostOut = s.hostOut := rfl

/-! ### A byte engine step before its completion -/

@[simp] theorem byteAdvance_nfsr (s : State) : (byteAdvance s).nfsr = (cipherStep s.regs).2.nfsr := rfl
@[simp] theorem byteAdvance_lfsr (s : State) : (byteAdvance s).lfsr = (cipherStep s.regs).2.lfsr := rfl
@[simp] theorem byteAdvance_key (s : State) : (byteAdvance s).key = s.key := rfl
@[simp] theorem byteAdvance_keySize (s : State) : (byteAdvance s).keySize = s.keySize := rfl
@[simp] theorem byteAdvance_ivSize (s : State) : (byteAdvance s).ivSize = s.ivSize := rfl
@[simp] theorem byteAdvance_phase (s : State) : (byteAdvance s).phase = s.phase := rfl
@[simp] theorem byteAdvance_keyBuf (s : State) : (byteAdvance s).keyBuf = s.keyBuf := rfl
@[simp] theorem byteAdvance_keyCount (s : State) : (byteAdvance s).keyCount = s.keyCount := rfl
@[simp] theorem byteAdvance_ivBuf (s : State) : (byteAdvance s).ivBuf = s.ivBuf := rfl
@[simp] theorem byteAdvance_ivCount (s : State) : (byteAdvance s).ivCount = s.ivCount := rfl
@[simp] theorem byteAdvance_warmCount (s : State) : (byteAdvance s).warmCount = s.warmCount := rfl
@[simp] theorem byteAdvance_pend (s : State) : (byteAdvance s).pend = s.pend := rfl
@[simp] theorem byteAdvance_pendOpc (s : State) : (byteAdvance s).pendOpc = s.pendOpc := rfl
@[simp] theorem byteAdvance_pendData (s : State) : (byteAdvance s).pendData = s.pendData := rfl
@[simp] theorem byteAdvance_acc (s : State) : (byteAdvance s).acc = packBit s.acc s.bitCount (cipherStep s.regs).1 := rfl
@[simp] theorem byteAdvance_bitCount (s : State) : (byteAdvance s).bitCount = s.bitCount + 1 := rfl
@[simp] theorem byteAdvance_lastRsp (s : State) : (byteAdvance s).lastRsp = s.lastRsp := rfl
@[simp] theorem byteAdvance_hostIn (s : State) : (byteAdvance s).hostIn = s.hostIn := rfl
@[simp] theorem byteAdvance_hostOut (s : State) : (byteAdvance s).hostOut = s.hostOut := rfl

/-! ### The end of a warm-up -/

@[simp] theorem warmupComplete_nfsr (s : State) : (warmupComplete s).nfsr = s.nfsr := rfl
@[simp] theorem warmupComplete_lfsr (s : State) : (warmupComplete s).lfsr = s.lfsr := rfl
@[simp] theorem warmupComplete_key (s : State) : (warmupComplete s).key = s.key := rfl
@[simp] theorem warmupComplete_keySize (s : State) : (warmupComplete s).keySize = s.keySize := rfl
@[simp] theorem warmupComplete_ivSize (s : State) : (warmupComplete s).ivSize = s.ivSize := rfl
@[simp] theorem warmupComplete_phase (s : State) : (warmupComplete s).phase = .keystreaming := rfl
@[simp] theorem warmupComplete_keyBuf (s : State) : (warmupComplete s).keyBuf = s.keyBuf := rfl
@[simp] theorem warmupComplete_keyCount (s : State) : (warmupComplete s).keyCount = s.keyCount := rfl
@[simp] theorem warmupComplete_ivBuf (s : State) : (warmupComplete s).ivBuf = s.ivBuf := rfl
@[simp] theorem warmupComplete_ivCount (s : State) : (warmupComplete s).ivCount = s.ivCount := rfl
@[simp] theorem warmupComplete_warmCount (s : State) : (warmupComplete s).warmCount = s.warmCount := rfl
@[simp] theorem warmupComplete_pend (s : State) : (warmupComplete s).pend = .none := rfl
@[simp] theorem warmupComplete_pendOpc (s : State) : (warmupComplete s).pendOpc = s.pendOpc := rfl
@[simp] theorem warmupComplete_pendData (s : State) : (warmupComplete s).pendData = s.pendData := rfl
@[simp] theorem warmupComplete_acc (s : State) : (warmupComplete s).acc = s.acc := rfl
@[simp] theorem warmupComplete_bitCount (s : State) : (warmupComplete s).bitCount = s.bitCount := rfl
@[simp] theorem warmupComplete_lastRsp (s : State) : (warmupComplete s).lastRsp = responseWord 0x4 .keystreaming .ok 0 := rfl
@[simp] theorem warmupComplete_hostIn (s : State) : (warmupComplete s).hostIn = s.hostIn := rfl
@[simp] theorem warmupComplete_hostOut (s : State) : (warmupComplete s).hostOut = s.hostOut ++ [responseWord 0x4 .keystreaming .ok 0] := rfl

/-! ### The end of a byte command -/

@[simp] theorem byteComplete_nfsr (s : State) : (byteComplete s).nfsr = s.nfsr := rfl
@[simp] theorem byteComplete_lfsr (s : State) : (byteComplete s).lfsr = s.lfsr := rfl
@[simp] theorem byteComplete_key (s : State) : (byteComplete s).key = s.key := rfl
@[simp] theorem byteComplete_keySize (s : State) : (byteComplete s).keySize = s.keySize := rfl
@[simp] theorem byteComplete_ivSize (s : State) : (byteComplete s).ivSize = s.ivSize := rfl
@[simp] theorem byteComplete_phase (s : State) : (byteComplete s).phase = s.phase := rfl
@[simp] theorem byteComplete_keyBuf (s : State) : (byteComplete s).keyBuf = s.keyBuf := rfl
@[simp] theorem byteComplete_keyCount (s : State) : (byteComplete s).keyCount = s.keyCount := rfl
@[simp] theorem byteComplete_ivBuf (s : State) : (byteComplete s).ivBuf = s.ivBuf := rfl
@[simp] theorem byteComplete_ivCount (s : State) : (byteComplete s).ivCount = s.ivCount := rfl
@[simp] theorem byteComplete_warmCount (s : State) : (byteComplete s).warmCount = s.warmCount := rfl
@[simp] theorem byteComplete_pend (s : State) : (byteComplete s).pend = .none := rfl
@[simp] theorem byteComplete_pendOpc (s : State) : (byteComplete s).pendOpc = s.pendOpc := rfl
@[simp] theorem byteComplete_pendData (s : State) : (byteComplete s).pendData = s.pendData := rfl
@[simp] theorem byteComplete_acc (s : State) : (byteComplete s).acc = s.acc := rfl
@[simp] theorem byteComplete_bitCount (s : State) : (byteComplete s).bitCount = s.bitCount := rfl
@[simp] theorem byteComplete_lastRsp (s : State) : (byteComplete s).lastRsp = responseWord s.pendOpc s.phase .ok (s.acc ^^^ s.pendData) := rfl
@[simp] theorem byteComplete_hostIn (s : State) : (byteComplete s).hostIn = s.hostIn := rfl
@[simp] theorem byteComplete_hostOut (s : State) : (byteComplete s).hostOut = s.hostOut ++ [responseWord s.pendOpc s.phase .ok (s.acc ^^^ s.pendData)] := rfl

/-! ### The warm-up begun -/

@[simp] theorem startWarmup_nfsr (s : State) : (startWarmup s).nfsr = s.nfsr := rfl
@[simp] theorem startWarmup_lfsr (s : State) : (startWarmup s).lfsr = s.lfsr := rfl
@[simp] theorem startWarmup_key (s : State) : (startWarmup s).key = s.key := rfl
@[simp] theorem startWarmup_keySize (s : State) : (startWarmup s).keySize = s.keySize := rfl
@[simp] theorem startWarmup_ivSize (s : State) : (startWarmup s).ivSize = s.ivSize := rfl
@[simp] theorem startWarmup_phase (s : State) : (startWarmup s).phase = .initializing := rfl
@[simp] theorem startWarmup_keyBuf (s : State) : (startWarmup s).keyBuf = s.keyBuf := rfl
@[simp] theorem startWarmup_keyCount (s : State) : (startWarmup s).keyCount = s.keyCount := rfl
@[simp] theorem startWarmup_ivBuf (s : State) : (startWarmup s).ivBuf = s.ivBuf := rfl
@[simp] theorem startWarmup_ivCount (s : State) : (startWarmup s).ivCount = s.ivCount := rfl
@[simp] theorem startWarmup_warmCount (s : State) : (startWarmup s).warmCount = 0 := rfl
@[simp] theorem startWarmup_pend (s : State) : (startWarmup s).pend = .warmup := rfl
@[simp] theorem startWarmup_pendOpc (s : State) : (startWarmup s).pendOpc = s.pendOpc := rfl
@[simp] theorem startWarmup_pendData (s : State) : (startWarmup s).pendData = s.pendData := rfl
@[simp] theorem startWarmup_acc (s : State) : (startWarmup s).acc = s.acc := rfl
@[simp] theorem startWarmup_bitCount (s : State) : (startWarmup s).bitCount = s.bitCount := rfl
@[simp] theorem startWarmup_lastRsp (s : State) : (startWarmup s).lastRsp = s.lastRsp := rfl
@[simp] theorem startWarmup_hostIn (s : State) : (startWarmup s).hostIn = s.hostIn := rfl
@[simp] theorem startWarmup_hostOut (s : State) : (startWarmup s).hostOut = s.hostOut := rfl

/-! ### A byte command begun -/

@[simp] theorem startByte_nfsr (opc : BitVec 4) (d : Byte) (s : State) : (startByte opc d s).nfsr = s.nfsr := rfl
@[simp] theorem startByte_lfsr (opc : BitVec 4) (d : Byte) (s : State) : (startByte opc d s).lfsr = s.lfsr := rfl
@[simp] theorem startByte_key (opc : BitVec 4) (d : Byte) (s : State) : (startByte opc d s).key = s.key := rfl
@[simp] theorem startByte_keySize (opc : BitVec 4) (d : Byte) (s : State) : (startByte opc d s).keySize = s.keySize := rfl
@[simp] theorem startByte_ivSize (opc : BitVec 4) (d : Byte) (s : State) : (startByte opc d s).ivSize = s.ivSize := rfl
@[simp] theorem startByte_phase (opc : BitVec 4) (d : Byte) (s : State) : (startByte opc d s).phase = s.phase := rfl
@[simp] theorem startByte_keyBuf (opc : BitVec 4) (d : Byte) (s : State) : (startByte opc d s).keyBuf = s.keyBuf := rfl
@[simp] theorem startByte_keyCount (opc : BitVec 4) (d : Byte) (s : State) : (startByte opc d s).keyCount = s.keyCount := rfl
@[simp] theorem startByte_ivBuf (opc : BitVec 4) (d : Byte) (s : State) : (startByte opc d s).ivBuf = s.ivBuf := rfl
@[simp] theorem startByte_ivCount (opc : BitVec 4) (d : Byte) (s : State) : (startByte opc d s).ivCount = s.ivCount := rfl
@[simp] theorem startByte_warmCount (opc : BitVec 4) (d : Byte) (s : State) : (startByte opc d s).warmCount = s.warmCount := rfl
@[simp] theorem startByte_pend (opc : BitVec 4) (d : Byte) (s : State) : (startByte opc d s).pend = .byte := rfl
@[simp] theorem startByte_pendOpc (opc : BitVec 4) (d : Byte) (s : State) : (startByte opc d s).pendOpc = opc := rfl
@[simp] theorem startByte_pendData (opc : BitVec 4) (d : Byte) (s : State) : (startByte opc d s).pendData = d := rfl
@[simp] theorem startByte_acc (opc : BitVec 4) (d : Byte) (s : State) : (startByte opc d s).acc = 0 := rfl
@[simp] theorem startByte_bitCount (opc : BitVec 4) (d : Byte) (s : State) : (startByte opc d s).bitCount = 0 := rfl
@[simp] theorem startByte_lastRsp (opc : BitVec 4) (d : Byte) (s : State) : (startByte opc d s).lastRsp = s.lastRsp := rfl
@[simp] theorem startByte_hostIn (opc : BitVec 4) (d : Byte) (s : State) : (startByte opc d s).hostIn = s.hostIn := rfl
@[simp] theorem startByte_hostOut (opc : BitVec 4) (d : Byte) (s : State) : (startByte opc d s).hostOut = s.hostOut := rfl

/-! ### The port's first input consumed -/

@[simp] theorem dropInput_nfsr (s : State) : (dropInput s).nfsr = s.nfsr := rfl
@[simp] theorem dropInput_lfsr (s : State) : (dropInput s).lfsr = s.lfsr := rfl
@[simp] theorem dropInput_key (s : State) : (dropInput s).key = s.key := rfl
@[simp] theorem dropInput_keySize (s : State) : (dropInput s).keySize = s.keySize := rfl
@[simp] theorem dropInput_ivSize (s : State) : (dropInput s).ivSize = s.ivSize := rfl
@[simp] theorem dropInput_phase (s : State) : (dropInput s).phase = s.phase := rfl
@[simp] theorem dropInput_keyBuf (s : State) : (dropInput s).keyBuf = s.keyBuf := rfl
@[simp] theorem dropInput_keyCount (s : State) : (dropInput s).keyCount = s.keyCount := rfl
@[simp] theorem dropInput_ivBuf (s : State) : (dropInput s).ivBuf = s.ivBuf := rfl
@[simp] theorem dropInput_ivCount (s : State) : (dropInput s).ivCount = s.ivCount := rfl
@[simp] theorem dropInput_warmCount (s : State) : (dropInput s).warmCount = s.warmCount := rfl
@[simp] theorem dropInput_pend (s : State) : (dropInput s).pend = s.pend := rfl
@[simp] theorem dropInput_pendOpc (s : State) : (dropInput s).pendOpc = s.pendOpc := rfl
@[simp] theorem dropInput_pendData (s : State) : (dropInput s).pendData = s.pendData := rfl
@[simp] theorem dropInput_acc (s : State) : (dropInput s).acc = s.acc := rfl
@[simp] theorem dropInput_bitCount (s : State) : (dropInput s).bitCount = s.bitCount := rfl
@[simp] theorem dropInput_lastRsp (s : State) : (dropInput s).lastRsp = s.lastRsp := rfl
@[simp] theorem dropInput_hostIn (s : State) : (dropInput s).hostIn = s.hostIn.tail := rfl
@[simp] theorem dropInput_hostOut (s : State) : (dropInput s).hostOut = s.hostOut := rfl

/-! ### The reset input -/

@[simp] theorem applyReset_nfsr (s : State) : (applyReset s).nfsr = State.reset.nfsr := rfl
@[simp] theorem applyReset_lfsr (s : State) : (applyReset s).lfsr = State.reset.lfsr := rfl
@[simp] theorem applyReset_key (s : State) : (applyReset s).key = State.reset.key := rfl
@[simp] theorem applyReset_keySize (s : State) : (applyReset s).keySize = State.reset.keySize := rfl
@[simp] theorem applyReset_ivSize (s : State) : (applyReset s).ivSize = State.reset.ivSize := rfl
@[simp] theorem applyReset_phase (s : State) : (applyReset s).phase = State.reset.phase := rfl
@[simp] theorem applyReset_keyBuf (s : State) : (applyReset s).keyBuf = State.reset.keyBuf := rfl
@[simp] theorem applyReset_keyCount (s : State) : (applyReset s).keyCount = State.reset.keyCount := rfl
@[simp] theorem applyReset_ivBuf (s : State) : (applyReset s).ivBuf = State.reset.ivBuf := rfl
@[simp] theorem applyReset_ivCount (s : State) : (applyReset s).ivCount = State.reset.ivCount := rfl
@[simp] theorem applyReset_warmCount (s : State) : (applyReset s).warmCount = State.reset.warmCount := rfl
@[simp] theorem applyReset_pend (s : State) : (applyReset s).pend = State.reset.pend := rfl
@[simp] theorem applyReset_pendOpc (s : State) : (applyReset s).pendOpc = State.reset.pendOpc := rfl
@[simp] theorem applyReset_pendData (s : State) : (applyReset s).pendData = State.reset.pendData := rfl
@[simp] theorem applyReset_acc (s : State) : (applyReset s).acc = State.reset.acc := rfl
@[simp] theorem applyReset_bitCount (s : State) : (applyReset s).bitCount = State.reset.bitCount := rfl
@[simp] theorem applyReset_lastRsp (s : State) : (applyReset s).lastRsp = State.reset.lastRsp := rfl
@[simp] theorem applyReset_hostIn (s : State) : (applyReset s).hostIn = s.hostIn := rfl
@[simp] theorem applyReset_hostOut (s : State) : (applyReset s).hostOut = s.hostOut := rfl

/-! ### The registers as a pair, and the idle flag -/

@[simp] theorem regs_nfsr (s : State) : s.regs.nfsr = s.nfsr := rfl
@[simp] theorem regs_lfsr (s : State) : s.regs.lfsr = s.lfsr := rfl
@[simp] theorem setRegs_regs (s : State) (r : Regs) : (s.setRegs r).regs = r := rfl

/-- BUSY in terms of PEND (R31). -/
theorem busy_eq_false_iff (s : State) : s.busy = false ↔ s.pend = .none := by
  simp [State.busy]

/-- An idle engine's BUSY. -/
@[simp] theorem busy_of_idle (s : State) (h : s.pend = .none) : s.busy = false :=
  (busy_eq_false_iff s).2 h

/-- A busy engine's BUSY. -/
theorem busy_of_pend (s : State) (h : s.pend ≠ .none) : s.busy = true := by
  simp [State.busy, h]

/-- `respond` is a completion with the response word of the phase the command left. -/
theorem respond_eq_answered (opc : BitVec 4) (r : Result) (d : Byte) (s : State) :
    respond opc r d s = s.answered (responseWord opc s.phase r d) := rfl

end Sys2Proof.Machine
end

