-- ==== Sys2Proof/Laws/Ops.lean ====
section
/-! SUPPORT. One lemma per shared operation, saying once everything it can do: the hold, the transfer
buffers, the byte commands' start, the sequencer's engine step. -/

namespace Sys2Proof.Machine

/-- An accepted command answers its effect (R120). -/
theorem held_idle (s t : State) (h : s.pend = .none) : held s t = .next t := by
  simp [held, h]

/-- A busy engine holds a command and keeps its state (R203). -/
theorem held_busy (s t : State) (h : s.pend ≠ .none) : held s t = .next s := by
  simp [held, busy_of_pend s h]

/-- The saturating counter (R7). -/
theorem satInc_toNat (c : BitVec 8) : (satInc c).toNat = min (c.toNat + 1) 255 := by
  have hc := c.isLt
  unfold satInc
  split_ifs with h
  · subst h; rfl
  · have : c.toNat ≠ 255 := fun e => h (BitVec.eq_of_toNat_eq e)
    rw [BitVec.toNat_add]
    simp
    omega

/-- A pushed byte stands at the count, when the count is a place of the buffer (R122, R123). -/
theorem pushByte_getElem (buf : Block) (count : BitVec 8) (d : Byte) (i : Nat) (h : i < 16) :
    (pushByte buf count d)[i] = if i = count.toNat then d else buf[i] := by
  unfold pushByte Config.bufferCap
  by_cases h1 : count.toNat < 16
  · rw [if_pos h1]
    by_cases h2 : i = count.toNat
    · subst h2; simp
    · rw [if_neg h2, Vector.getElem_setIfInBounds_ne h (fun e => h2 e.symm)]
  · rw [if_neg h1, if_neg (by omega)]

/-- A cleared buffer holds zero bytes. -/
@[simp] theorem zeroBlock_getElem (i : Nat) (h : i < 16) : zeroBlock[i] = 0 := by
  simp [zeroBlock]

/-- Two blocks with the same bytes are the same block. -/
theorem block_ext (a b : Block) (h : ∀ (i : Nat) (hi : i < 16), a[i] = b[i]) : a = b :=
  Vector.ext h

/-- The IV length check of INITIALIZE (R127). -/
theorem ivLengthOk_iff (s : State) : ivLengthOk s = true ↔ s.ivCount.toNat = s.ivSize.toNat / 8 := by
  simp [ivLengthOk, ivBytes]

/-- The configuration check of CONSTRUCT (R124). -/
theorem supported_iff (ks ivs : BitVec 11) :
    supported ks ivs = true ↔ ks = 128 ∧ (ivs = 96 ∨ ivs = 128) := by
  simp [supported]

/-- What a byte command's acceptance does: start in KEYSTREAMING, NOT_INITIALIZED elsewhere
(R153, R156). -/
theorem byteCommand_eq (opc : BitVec 4) (d : Byte) (s : State) :
    (s.phase = .keystreaming ∧ byteCommand opc d s = startByte opc d s) ∨
    (s.phase ≠ .keystreaming ∧ byteCommand opc d s = respond opc .notInitialized 0 s) := by
  unfold byteCommand
  split_ifs with h
  · exact .inl ⟨h, rfl⟩
  · exact .inr ⟨h, rfl⟩

/-- What CONSTRUCT's acceptance does (R124). -/
theorem constructEffect_eq (ks ivs : BitVec 11) (s : State) :
    (supported ks ivs = false ∧
      constructEffect ks ivs s = respond 0x3 .unsupportedConfiguration 0 (clearKeyBuf s)) ∨
    (supported ks ivs = true ∧ s.keyCount.toNat ≠ 16 ∧
      constructEffect ks ivs s = respond 0x3 .invalidKeyLength 0 (clearKeyBuf s)) ∨
    (supported ks ivs = true ∧ s.keyCount.toNat = 16 ∧
      constructEffect ks ivs s = respond 0x3 .ok 0 (clearKeyBuf (constructed ivs s))) := by
  unfold constructEffect
  split_ifs with h1 h2
  · exact .inl ⟨h1, rfl⟩
  · exact .inr (.inl ⟨by simpa using h1, h2, rfl⟩)
  · exact .inr (.inr ⟨by simpa using h1, by simpa using h2, rfl⟩)

/-- What INITIALIZE's acceptance does (R127). -/
theorem initEffect_eq (s : State) :
    (s.phase = .empty ∧ initEffect s = respond 0x4 .notConstructed 0 (clearIvBuf s)) ∨
    (s.phase ≠ .empty ∧ ivLengthOk s = false ∧
      initEffect s = respond 0x4 .invalidIvLength 0 (failInit s)) ∨
    (s.phase ≠ .empty ∧ ivLengthOk s = true ∧
      initEffect s = startWarmup (clearIvBuf (loadRegs s))) := by
  unfold initEffect
  split_ifs with h1 h2
  · exact .inl ⟨h1, rfl⟩
  · exact .inr (.inl ⟨h1, h2, rfl⟩)
  · exact .inr (.inr ⟨h1, by simpa using h2, rfl⟩)

/-- A warm-up engine step: one more, or the last (R128, R129). -/
theorem warmupEngineStep_eq (s : State) :
    (s.warmCount ≠ 255 ∧ warmupEngineStep s = warmupAdvance s) ∨
    (s.warmCount = 255 ∧ warmupEngineStep s = warmupComplete (warmupAdvance s)) := by
  have key : (s.warmCount + 1).toNat = 256 ↔ s.warmCount = 255 := by
    have hc := s.warmCount.isLt
    constructor
    · intro h
      apply BitVec.eq_of_toNat_eq
      simp only [BitVec.toNat_add, BitVec.ofNat_eq_ofNat, BitVec.toNat_ofNat] at h ⊢
      omega
    · intro h; rw [h]; rfl
  unfold warmupEngineStep
  rw [warmupAdvance_warmCount]
  by_cases h : s.warmCount = 255
  · exact .inr ⟨h, if_pos (key.2 h)⟩
  · exact .inl ⟨h, if_neg (mt key.1 h)⟩

/-- A byte engine step: one more, or the last (R151). -/
theorem byteEngineStep_eq (s : State) :
    (s.bitCount ≠ 7 ∧ byteEngineStep s = byteAdvance s) ∨
    (s.bitCount = 7 ∧ byteEngineStep s = byteComplete (byteAdvance s)) := by
  have key : (s.bitCount + 1).toNat = 8 ↔ s.bitCount = 7 := by
    have hc := s.bitCount.isLt
    constructor
    · intro h
      apply BitVec.eq_of_toNat_eq
      simp only [BitVec.toNat_add, BitVec.ofNat_eq_ofNat, BitVec.toNat_ofNat] at h ⊢
      omega
    · intro h; rw [h]; rfl
  unfold byteEngineStep
  rw [byteAdvance_bitCount]
  by_cases h : s.bitCount = 7
  · exact .inr ⟨h, if_pos (key.2 h)⟩
  · exact .inl ⟨h, if_neg (mt key.1 h)⟩

/-- An idle engine's step (R193). -/
theorem engineStep_idle (s : State) (h : s.pend = .none) : engineStep s = s := by
  simp [engineStep, h]

/-- An engine step in a warm-up. -/
theorem engineStep_warmup (s : State) (h : s.pend = .warmup) : engineStep s = warmupEngineStep s := by
  simp [engineStep, h]

/-- An engine step in a byte command. -/
theorem engineStep_byte (s : State) (h : s.pend = .byte) : engineStep s = byteEngineStep s := by
  simp [engineStep, h]

end Sys2Proof.Machine
end

