-- ==== Sys2Proof/Laws/PerInstr.lean ====
section
/-! SUPPORT. A fact about every command as syntax, one lemma per constructor: its word lies in the row of the
pattern table that bears its mnemonic (R74). -/

namespace Sys2Proof.Laws

/-- The mnemonic of a command, as the pattern table has it. -/
def mnemonicOf : Instr → String
  | .nop => "NOP"
  | .keyPush _ => "KEY_PUSH"
  | .ivPush _ => "IV_PUSH"
  | .construct _ _ => "CONSTRUCT"
  | .init => "INITIALIZE"
  | .ksByte => "KS_BYTE"
  | .encryptByte _ => "ENCRYPT_BYTE"
  | .decryptByte _ => "DECRYPT_BYTE"

/-- Every encoding lies in its own row. -/
def EncodeInRow.Statement (i : Instr) : Prop :=
  ∃ p ∈ patterns, p.mnemonic = mnemonicOf i ∧ p.Matches (encode i)

/-- A word of a command with a byte operand, under the mask that leaves that operand out. -/
theorem assembleWord_byte_mask (o : BitVec 4) (d : Byte) :
    assembleWord o d 0 0 &&& 0xFFFF00FF#32 = assembleWord o 0 0 0 := by
  revert o d; decide +kernel

/-- A word of CONSTRUCT, under the mask that leaves both sizes out. -/
theorem assembleWord_size_mask (o : BitVec 4) (k v : BitVec 8) :
    assembleWord o 0 k v &&& 0x0000FFFF#32 = assembleWord o 0 0 0 := by
  apply BitVec.eq_of_getLsbD_eq
  intro i hi
  rw [BitVec.getLsbD_and, assembleWord_getLsbD, assembleWord_getLsbD]
  have hm : (0x0000FFFF#32).getLsbD i = decide (i < 16) := by revert hi; revert i; decide
  rw [hm]
  split_ifs <;> simp <;> omega

theorem EncodeInRow.nop : EncodeInRow.Statement .nop :=
  ⟨patterns[0], by decide, rfl, by decide⟩

theorem EncodeInRow.keyPush (d : Byte) : EncodeInRow.Statement (.keyPush d) :=
  ⟨patterns[1], by decide, rfl, assembleWord_byte_mask 1 d⟩

theorem EncodeInRow.ivPush (d : Byte) : EncodeInRow.Statement (.ivPush d) :=
  ⟨patterns[2], by decide, rfl, assembleWord_byte_mask 2 d⟩

theorem EncodeInRow.construct (ks ivs : BitVec 11) : EncodeInRow.Statement (.construct ks ivs) :=
  ⟨patterns[3], by decide, rfl, assembleWord_size_mask 3 _ _⟩

theorem EncodeInRow.init : EncodeInRow.Statement .init :=
  ⟨patterns[4], by decide, rfl, by decide⟩

theorem EncodeInRow.ksByte : EncodeInRow.Statement .ksByte :=
  ⟨patterns[5], by decide, rfl, by decide⟩

theorem EncodeInRow.encryptByte (p : Byte) : EncodeInRow.Statement (.encryptByte p) :=
  ⟨patterns[6], by decide, rfl, assembleWord_byte_mask 6 p⟩

theorem EncodeInRow.decryptByte (c : Byte) : EncodeInRow.Statement (.decryptByte c) :=
  ⟨patterns[7], by decide, rfl, assembleWord_byte_mask 7 c⟩

end Sys2Proof.Laws
end

