-- ==== Sys2Proof/Laws/Step.lean ====
section
/-! SUPPORT. What a step can do, said once: the inversion lemmas of acceptance and of the engine step under
each host input. -/

namespace Sys2Proof.Machine

/-- The effect of a command's acceptance in an idle engine. -/
def acceptEffect (i : Instr) (s : State) : State :=
  match i with
  | .nop => respond 0x0 .ok 0 s
  | .keyPush d => respond 0x1 .ok 0 (pushKey d s)
  | .ivPush d => respond 0x2 .ok 0 (pushIv d s)
  | .construct ks ivs => constructEffect ks ivs s
  | .init => initEffect s
  | .ksByte => byteCommand 0x5 0 s
  | .encryptByte p => byteCommand 0x6 p s
  | .decryptByte c => byteCommand 0x7 c s

/-- Every command is its effect, held while the engine is busy (R120, R203). -/
theorem exec_eq_held (i : Instr) (s : State) : exec i s = held s (acceptEffect i s) := by
  cases i <;> rfl

/-- A command in an idle engine. -/
theorem exec_idle (i : Instr) (s : State) (h : s.pend = .none) :
    exec i s = .next (acceptEffect i s) := by
  rw [exec_eq_held, held_idle _ _ h]

/-- Acceptance of a word by an idle engine: a command's effect, or the answer to an illegal word. -/
theorem acceptWord_idle (w : Word) (s : State) (h : s.pend = .none) :
    (∃ i, decode w = .ok i ∧ acceptWord w s = .next (acceptEffect i s)) ∨
    (∃ e, decode w = .error e ∧ acceptWord w s = .next (illegalEffect w s)) := by
  unfold acceptWord
  cases hd : decode w with
  | ok i => exact .inl ⟨i, rfl, exec_idle i s h⟩
  | error e => exact .inr ⟨e, rfl, held_idle _ _ h⟩

/-- Everything one step can do. -/
theorem step_cases (s t : State) (h : step s = .next t) :
    (s.hostIn = [] ∧ t = engineStep s) ∨
    (∃ rest, s.hostIn = .quiet :: rest ∧ t = engineStep (dropInput s)) ∨
    (∃ rest, s.hostIn = .reset :: rest ∧ t = applyReset (dropInput s)) ∨
    (∃ w rest, s.hostIn = .command w :: rest ∧ s.pend ≠ .none ∧ t = engineStep s) ∨
    (∃ w rest i, s.hostIn = .command w :: rest ∧ s.pend = .none ∧ decode w = .ok i ∧
      t = acceptEffect i (dropInput s)) ∨
    (∃ w rest e, s.hostIn = .command w :: rest ∧ s.pend = .none ∧ decode w = .error e ∧
      t = illegalEffect w (dropInput s)) := by
  unfold step cycle at h
  split at h
  · next g => cases h; exact .inl ⟨g, rfl⟩
  · next g => cases h; exact .inr (.inl ⟨_, g, rfl⟩)
  · next g => cases h; exact .inr (.inr (.inl ⟨_, g, rfl⟩))
  · next w rest g =>
    by_cases hp : s.pend = .none
    · rw [busy_of_idle s hp, if_neg (by simp)] at h
      obtain ⟨i, hi, e⟩ | ⟨e', hi, e⟩ := acceptWord_idle w (dropInput s) hp
      · rw [e] at h; cases h
        exact .inr (.inr (.inr (.inr (.inl ⟨w, rest, i, g, hp, hi, rfl⟩))))
      · rw [e] at h; cases h
        exact .inr (.inr (.inr (.inr (.inr ⟨w, rest, e', g, hp, hi, rfl⟩))))
    · rw [busy_of_pend s hp, if_pos rfl] at h
      cases h
      exact .inr (.inr (.inr (.inl ⟨w, rest, g, hp, rfl⟩)))

/-- With nothing, or a waiting command, at the port of a busy engine, a step is the sequencer's. -/
theorem step_busy (s : State) (h : s.pend ≠ .none) (hp : PortHolds s) :
    step s = .next (engineStep s) := by
  obtain e | ⟨w, rest, e⟩ := hp
  · simp [step, cycle, e]
  · simp [step, cycle, e, busy_of_pend s h]

/-- The sequencer does not touch the host's side of the port's input. -/
theorem engineStep_hostIn (s : State) : (engineStep s).hostIn = s.hostIn := by
  unfold engineStep
  cases s.pend with
  | none => rfl
  | warmup =>
    obtain ⟨-, e⟩ | ⟨-, e⟩ := warmupEngineStep_eq s <;> rw [e] <;> rfl
  | byte =>
    obtain ⟨-, e⟩ | ⟨-, e⟩ := byteEngineStep_eq s <;> rw [e] <;> rfl

/-- Running one step, then the rest. -/
theorem run_succ (k : Nat) (s t : State) (h : step s = .next t) :
    Host.Core.run core (k + 1) s = Host.Core.run core k t := by
  simp only [Host.Core.run, show core.step s = .next t from h]

end Sys2Proof.Machine
end

