-- ==== Sys2Proof/Tests/Slice0.lean ====
section
/-! SUPPORT. The model's own tests. Expected values are the spec's: its encodings (R74), its worked examples
and the tables of 95_test_vectors.md, named by their row ids. Then one witness for each obligation that has
hypotheses: a concrete state and operands that meet them all, with each clause at its boundary values. -/

namespace Sys2Proof.Tests

open Sys2Proof Sys2Proof.Machine

/-! ### States for the tests -/

/-- A block with one byte set. -/
def oneByte (i : Nat) (b : Byte) : Block := (Vector.replicate 16 (0 : Byte)).setIfInBounds i b

/-- The key of V2, and its IV. -/
def v2Key : Block := #v[0x01#8, 0x23#8, 0x45#8, 0x67#8, 0x89#8, 0xab#8, 0xcd#8, 0xef#8,
  0x12#8, 0x34#8, 0x56#8, 0x78#8, 0x9a#8, 0xbc#8, 0xde#8, 0xf0#8]

def v2Iv : Block := #v[0x01#8, 0x23#8, 0x45#8, 0x67#8, 0x89#8, 0xab#8, 0xcd#8, 0xef#8,
  0x12#8, 0x34#8, 0x56#8, 0x78#8, 0x00#8, 0x00#8, 0x00#8, 0x00#8]

/-- A constructed engine with V2's key and a 96-bit IV size. -/
def constructedV2 : State :=
  { State.reset with key := v2Key, keySize := 128, ivSize := 96, phase := .constructed }

/-- The engine right after V1's INITIALIZE. -/
def readyV1 : State :=
  { State.reset with
    nfsr := 0x3d5ac48773554e1ed5df5164a0eedbb9#128, lfsr := 0xbb5172acd49e6d188a8b7554e25774cd#128,
    keySize := 128, ivSize := 96, phase := .keystreaming, warmCount := 256, lastRsp := 0x00043000 }

/-- The engine right after V4's INITIALIZE, its key left out (a byte command does not read it). -/
def readyV4 : State :=
  { readyV1 with
    nfsr := 0xc65b25a94172f41a51119efd11139db5#128, lfsr := 0x40e472af06e24f37ed1ee71700915cba#128,
    ivSize := 128 }

/-- A warm-up in progress from all-ones registers, at a count and with a port. -/
def warming (c : BitVec 9) (port : List HostInput) : State :=
  { readyV1 with
    nfsr := BitVec.allOnes 128, lfsr := BitVec.allOnes 128,
    phase := .initializing, pend := .warmup, warmCount := c, hostIn := port }

/-- A byte command in progress, at a bit count and with a port. -/
def packing (c : BitVec 4) (port : List HostInput) : State :=
  { readyV1 with pend := .byte, pendOpc := 6, pendData := 0x0F, bitCount := c, hostIn := port }

/-- The next state of a step or a command, the state itself when there is none. -/
def after (o : Host.Outcome State Fault Refusal) (s : State) : State :=
  match o with
  | .next t => t
  | .fault _ => s
  | .refused _ => s

/-! ### WellFormed: each check refuses a term that breaks it alone -/

theorem test_wellFormed_refuses_key_size : ¬ WellFormed (.construct 129 96) := by decide
theorem test_wellFormed_refuses_iv_size : ¬ WellFormed (.construct 128 100) := by decide
theorem test_wellFormed_accepts : WellFormed (.construct 2040 0) ∧ WellFormed (.keyPush 255) := by decide

/-! ### Decoding: words written out from R74's encoding strings, bit 31 first -/

theorem test_decode_nop :
    decode 0b00000000000000000000000000000000#32 = .ok .nop := by decide
theorem test_decode_keyPush :
    decode 0b00000000000000001010101100000001#32 = .ok (.keyPush 0xab#8) := by decide
theorem test_decode_ivPush :
    decode 0b00000000000000001111111100000010#32 = .ok (.ivPush 0xff#8) := by decide
theorem test_decode_construct :
    decode 0b00001100000100000000000000000011#32 = .ok (.construct 128 96) := by decide
theorem test_decode_initialize :
    decode 0b00000000000000000000000000000100#32 = .ok .init := by decide
theorem test_decode_ksByte :
    decode 0b00000000000000000000000000000101#32 = .ok .ksByte := by decide
theorem test_decode_encryptByte :
    decode 0b00000000000000000101000000000110#32 = .ok (.encryptByte 0x50#8) := by decide
theorem test_decode_decryptByte :
    decode 0b00000000000000001001010100000111#32 = .ok (.decryptByte 0x95#8) := by decide

/-- The illegal words E11 to E19, each rejected by name. -/
theorem test_decode_rejects :
    [0x00000010#32, 0x00000008#32, 0x0000000f#32, 0x0000ff05#32, 0x00010001#32, 0x0c100013#32,
      0x80000000#32, 0x00ff0004#32, 0xffffffff#32].map decode =
    [.error .reservedBits, .error .reservedOpcode, .error .reservedOpcode, .error .dataNotZero,
      .error .sizeNotZero, .error .reservedBits, .error .sizeNotZero, .error .sizeNotZero,
      .error .reservedBits] := by decide

/-- R81's examples, encoded. -/
theorem test_encode_construct :
    encode (.construct 128 96) = 0x0C100003#32 ∧ encode (.construct 64 96) = 0x0C080003#32 := by decide

theorem test_decodeTableWord : decodeTableWord 32 0x0C100003 = some (.construct 128 96) := by decide

/-- A table word runs as the first command after reset (C2). -/
theorem test_withFetchWord :
    (after (step (State.reset.withFetchWord 32 0x0000ab01)) State.reset).lastRsp = 0x00010000#32 := by
  decide

/-! ### The datapath: S, LD and V rows -/

theorem test_step_S2 :
    cipherStep { nfsr := BitVec.allOnes 128, lfsr := BitVec.allOnes 128 } =
      (true, { nfsr := BitVec.allOnes 128, lfsr := 0x7fffffffffffffffffffffffffffffff#128 }) := by
  decide
theorem test_step_S4 :
    cipherStep { nfsr := 0, lfsr := 1 } =
      (false, { nfsr := 0x80000000000000000000000000000000#128,
                lfsr := 0x80000000000000000000000000000000#128 }) := by decide
theorem test_step_S5 :
    (cipherStep { nfsr := 0x00000000800000000000000000001000#128,
                  lfsr := 0x00000000800000000000000000000000#128 }).1 = true := by decide
theorem test_step_S6 :
    (cipherStep { nfsr := 0x00000000800000000000000000001000#128, lfsr := 0 }).1 = false := by
  decide
theorem test_step_S7 :
    cipherStep { nfsr := 8, lfsr := 0 } = (false, { nfsr := 4, lfsr := 0 }) := by decide
theorem test_step_S8 :
    (cipherStep { nfsr := 0x00000000000000080000000000000008#128, lfsr := 0 }).2.nfsr =
      0x80000000000000040000000000000004#128 := by decide
theorem test_step_S12 :
    (cipherStep { nfsr := 0, lfsr := 0x00000000000080001000000000000000#128 }).1 = true := by
  decide
theorem test_step_S17 :
    (cipherStep { nfsr := 0, lfsr := 0x00000001000000000000000000000000#128 }).2.lfsr =
      0x80000000800000000000000000000000#128 := by decide

theorem test_load_LD2 : loadNfsr (oneByte 15 0x80) = 0x80000000000000000000000000000000#128 := by
  decide
theorem test_load_LD4 : loadLfsr 12 (oneByte 11 0x80) = 0xffffffff800000000000000000000000#128 := by
  decide
theorem test_load_LD5 : loadLfsr 16 (oneByte 15 0x80) = 0x80000000000000000000000000000000#128 := by
  decide
theorem test_load_LD7 :
    loadNfsr v2Key = 0xf0debc9a78563412efcdab8967452301#128 ∧
    loadLfsr 12 v2Iv = 0xffffffff78563412efcdab8967452301#128 := by decide

/-- S2 with the fold of R128: out 1, nb 1, lb 0 give cell 127 of NFSR 0 and of LFSR 1. -/
theorem test_warmup_fold :
    ((engineStep (warming 3 [])).nfsr, (engineStep (warming 3 [])).lfsr) =
      (0x7fffffffffffffffffffffffffffffff#128, BitVec.allOnes 128) := by decide

/-- The first keystream bits of V1 are 0,0,0,0,1,1,1,1. -/
theorem test_keystream_bits_V1 :
    keystreamBits 8 readyV1.regs = [false, false, false, false, true, true, true, true] := by
  decide

/-! ### The commands: C, K and E rows -/

theorem test_nop_C1 : (after (exec .nop State.reset) State.reset) =
    { State.reset with lastRsp := 0x00000000, hostOut := [0x00000000] } := by decide
theorem test_nop_keystreaming : (after (exec .nop readyV1) readyV1).lastRsp = 0x00003000#32 := by
  decide
theorem test_keyPush_C2 : (after (exec (.keyPush 0xab) State.reset) State.reset) =
    { State.reset with
      keyBuf := oneByte 0 0xab, keyCount := 1, lastRsp := 0x00010000, hostOut := [0x00010000] } := by
  decide
theorem test_keyPush_C4 :
    (after (exec (.keyPush 0x22) { State.reset with keyCount := 255 }) State.reset).keyCount = 255 := by
  decide
theorem test_ivPush_C5 : (after (exec (.ivPush 0x01) State.reset) State.reset) =
    { State.reset with
      ivBuf := oneByte 0 0x01, ivCount := 1, lastRsp := 0x00020000, hostOut := [0x00020000] } := by
  decide
theorem test_ivPush_seventeenth :
    (after (exec (.ivPush 0x22) { State.reset with ivBuf := v2Key, ivCount := 16 }) State.reset).ivBuf =
      v2Key := by decide
theorem test_construct_C15 :
    (after (exec (.construct 128 128) { readyV1 with keyBuf := v2Key, keyCount := 16 }) readyV1) =
      { readyV1 with
        nfsr := 0, lfsr := 0, key := v2Key, ivSize := 128, phase := .constructed,
        lastRsp := 0x00031000, hostOut := [0x00031000] } := by decide
theorem test_construct_C12 :
    (after (exec (.construct 64 96) { State.reset with keyBuf := v2Key, keyCount := 3 })
      State.reset).lastRsp = 0x00030300#32 := by decide
theorem test_initialize_C18 :
    (after (exec .init { State.reset with ivBuf := v2Iv, ivCount := 12 }) State.reset) =
      { State.reset with lastRsp := 0x00040500, hostOut := [0x00040500] } := by decide
theorem test_initialize_C20 :
    (after (exec .init { constructedV2 with ivCount := 13 }) constructedV2) =
      { constructedV2 with phase := .failed, lastRsp := 0x00044200, hostOut := [0x00044200] } := by
  decide
theorem test_ksByte_K1 : (after (exec .ksByte State.reset) State.reset).lastRsp = 0x00050400#32 := by
  decide
theorem test_ksByte_K4 : (commandLevel 0x00000005 readyV1).lastRsp = 0x000530f0#32 := by decide +kernel
theorem test_encryptByte_K2 :
    (after (exec (.encryptByte 0x50) constructedV2) constructedV2).lastRsp = 0x00061400#32 := by
  decide
theorem test_encryptByte_K10 : (commandLevel 0x00005006 readyV4).lastRsp = 0x00063095#32 := by
  decide +kernel
theorem test_decryptByte_K3 :
    (after (exec (.decryptByte 0x95) { constructedV2 with phase := .failed }) constructedV2).lastRsp =
      0x00074400#32 := by decide
theorem test_decryptByte_K11 : (commandLevel 0x00009507 readyV4).lastRsp = 0x00073050#32 := by
  decide +kernel
theorem test_illegal_E19 :
    (after (acceptWord 0xffffffff State.reset) State.reset).lastRsp = 0x000f0600#32 := by decide

/-- A waiting command stays at the port of a busy engine (R203), and reset answers nothing (R201). -/
theorem test_busy_hold :
    (after (step (packing 3 [.command 0])) State.reset).hostIn = [.command 0] := by decide
theorem test_reset_busy : (after (step (packing 3 [.reset])) State.reset) = State.reset := by
  decide
/-- The eighth step of a byte command answers it (R151), the 256th of a warm-up answers INITIALIZE (R129). -/
theorem test_byte_last :
    (after (step { readyV1 with pend := .byte, pendOpc := 5, acc := 0x70, bitCount := 7 })
      State.reset).lastRsp = 0x00053070#32 := by decide
theorem test_warmup_last : (after (step (warming 255 [])) State.reset).lastRsp = 0x00043000#32 := by
  decide

/-! ### The assembler and the bus -/

theorem test_assembler_refuses :
    asmConstruct 100 96 = .error .sizeNotEncodable ∧
    asmConstruct 128 2048 = .error .sizeNotEncodable := by decide
/-- R80: the mnemonic in either case, a comment, and `.word`. -/
theorem test_assembler_line :
    parseLine "construct 128, 96 ; x".toList = .ok (.command (.construct 128 96)) := by decide
theorem test_assembler_script :
    assemble "NOP\nKEY_PUSH 0xab\n.word 16".toList = .ok [0#32, 0xab01#32, 0x10#32] := by
  decide
theorem test_assembler_number : parseNumber ['0', 'x', 'f', 'F'] = some 255 := by decide
/-- R82: the first pair of digits is byte 0. -/
theorem test_assembler_hex : parseHex ['0', '1', '2', '3'] = some [0x01#8, 0x23#8] := by decide
/-- R83: SETUP loads the key, constructs with the lengths in bits, loads the IV, initializes. -/
theorem test_setup_order :
    expand (.setup [0x01#8] [0x02#8]) =
      .ok [.keyPush 0x01, .construct 8 8, .ivPush 0x02, .init] := by decide
theorem test_bus_orders :
    busBytes .little 0x0C100003 = [0x03#8, 0x00#8, 0x10#8, 0x0C#8] ∧
    busBytes .big 0x0C100003 = [0x0C#8, 0x10#8, 0x00#8, 0x03#8] := by decide

/-! ### Witnesses: a state and operands that meet the hypotheses of each obligation -/

theorem readyV1_inv (port : List HostInput) : Inv { readyV1 with hostIn := port } := by
  constructor <;> simp [readyV1, State.reset]

theorem warming_inv (c : BitVec 9) (port : List HostInput) (h : c.toNat < 256) :
    Inv (warming c port) := by
  constructor <;> simp [warming, readyV1, State.reset, h]

theorem packing_inv (c : BitVec 4) (port : List HostInput) (h : c.toNat < 8) :
    Inv (packing c port) := by
  constructor <;> simp [packing, readyV1, State.reset, h]

theorem packing_seq (c : BitVec 4) (port : List HostInput) (h : c.toNat < 8) :
    SequencerInv (packing c port) := by
  constructor <;> simp [packing, readyV1, State.reset]
  omega

theorem witness_DecodeOfEncode :
    WellFormed .nop ∧ WellFormed (.construct 0 0) ∧ WellFormed (.construct 2040 2040) ∧
    WellFormed (.decryptByte 255) := by decide
theorem witness_EncodeOfDecode :
    decode 0xffff0003 = .ok (.construct 2040 2040) ∧ decode 0x0000ff07 = .ok (.decryptByte 255) := by
  decide
theorem witness_DecodeFollowsPatternTable :
    (0x00000000#32 &&& 0xFFFFFFFF#32 = 0x0#32) ∧ (0x0000FF01#32 &&& 0xFFFF00FF#32 = 0x1#32) ∧
    (0x0000FF02#32 &&& 0xFFFF00FF#32 = 0x2#32) ∧ (0xFFFF0003#32 &&& 0x0000FFFF#32 = 0x3#32) ∧
    (0x00000004#32 &&& 0xFFFFFFFF#32 = 0x4#32) ∧ (0x00000005#32 &&& 0xFFFFFFFF#32 = 0x5#32) ∧
    (0x00000006#32 &&& 0xFFFF00FF#32 = 0x6#32) ∧ (0x00000007#32 &&& 0xFFFF00FF#32 = 0x7#32) ∧
    (∃ p ∈ patterns, p.Matches 0xFFFF0003#32) ∧ ¬ (∃ p ∈ patterns, p.Matches 0x00000008#32) := by
  decide
theorem witness_IllegalWordsOnlyAnswered :
    State.reset.pend = .none ∧ decode 0x00000008 = .error .reservedOpcode ∧
    decode 0x00000013 = .error .reservedBits ∧ decode 0x00000103 = .error .dataNotZero ∧
    decode 0x01000007 = .error .sizeNotZero := by decide
theorem witness_StepReadsThenShifts :
    (0 < 127 ∧ 126 < 127) ∧
    ∃ ones : Regs, ones = { nfsr := BitVec.allOnes 128, lfsr := BitVec.allOnes 128 } :=
  ⟨by decide, _, rfl⟩
theorem witness_TapsStayBelowCell97 :
    (∀ i, i < 97 → (1#128 <<< 97).getLsbD i = (0#128).getLsbD i) ∧ 1#128 <<< 97 ≠ 0#128 ∧
    (∀ i ∈ [2, 12, 15, 36, 45, 64, 73, 89, 95], (1#128).getLsbD i = (0#128).getLsbD i) ∧
    (∀ i ∈ [8, 13, 20, 42, 60, 79, 93, 95], (1#128).getLsbD i = (0#128).getLsbD i) := by
  decide
theorem witness_ZeroRegistersAreFixed :
    (12 = 12 ∨ 12 = 16) ∧ (16 = 12 ∨ 16 = 16) ∧ loadLfsr 16 (oneByte 0 0) = 0 ∧
    loadNfsr (oneByte 0 0) = 0 ∧ loadLfsr 12 (oneByte 0 0) ≠ 0 := by decide
theorem witness_LoaderPlacesKeyBits :
    (0 < 16 ∧ 0 < 8 ∧ (loadNfsr (oneByte 0 1)).getLsbD 0 = true) ∧
    (15 < 16 ∧ 7 < 8 ∧ (loadNfsr (oneByte 15 0x80)).getLsbD (8 * 15 + 7) = true) := by decide
theorem witness_LoaderPlacesIvBits :
    (12 = 12 ∨ 12 = 16) ∧ (0 < 12 ∧ 11 < 12 ∧ 12 ≤ 12 ∧ 12 ≤ 15) ∧ (16 = 12 ∨ 16 = 16) ∧ 15 < 16 ∧
    (loadLfsr 12 (oneByte 11 0)).getLsbD (8 * 11 + 7) = false ∧
    (loadLfsr 12 (oneByte 11 0)).getLsbD (8 * 12) = true ∧
    (loadLfsr 16 (oneByte 11 0)).getLsbD (8 * 15 + 7) = false := by decide
theorem witness_KeystreamByteBits : 0 < 8 ∧ 7 < 8 := by decide
theorem witness_NopOnlyAnswers : readyV1.pend = .none ∧ State.reset.pend = .none := by decide
theorem witness_KeyPushFillsKeyBuffer :
    [0#8, 15#8, 16#8, 255#8].all (fun c => { State.reset with keyCount := c }.pend == .none) := by
  decide
theorem witness_IvPushFillsIvBuffer :
    [0#8, 15#8, 16#8, 255#8].all (fun c => { State.reset with ivCount := c }.pend == .none) := by
  decide
/-- One state for each branch: an unsupported size, 15 and 17 bytes of key, success. -/
theorem witness_ConstructChecksThenStores :
    State.reset.pend = .none ∧ (120#11).toNat ≠ 128 ∧ (128#11).toNat = 128 ∧
    (96#11).toNat = 96 ∧ (15#8).toNat ≠ 16 ∧ (17#8).toNat ≠ 16 ∧
    { State.reset with keyCount := 16 }.keyCount.toNat = 16 := by decide
/-- One state for each branch: EMPTY, an IV one byte short or long, success. -/
theorem witness_InitializeChecksThenLoads :
    (State.reset.pend = .none ∧ State.reset.phase = .empty) ∧
    (constructedV2.pend = .none ∧ constructedV2.phase ≠ .empty ∧
      (11#8).toNat ≠ constructedV2.ivSize.toNat / 8 ∧ (13#8).toNat ≠ constructedV2.ivSize.toNat / 8 ∧
      (12#8).toNat = constructedV2.ivSize.toNat / 8) := by decide
theorem witness_ByteCommandsNeedKeystreaming :
    (State.reset.pend = .none ∧ State.reset.phase ≠ .keystreaming) ∧
    (constructedV2.pend = .none ∧ constructedV2.phase ≠ .keystreaming) ∧
    Inv (warming 0 []) ∧ (warming 0 []).phase = .initializing :=
  ⟨by decide, by decide, warming_inv 0 [] (by decide), rfl⟩
theorem witness_ByteCommandsStartSequencer :
    readyV1.pend = .none ∧ readyV1.phase = .keystreaming := by decide
/-- Both kinds of port, and each of the three commands. -/
theorem witness_ByteCommandsDeliverKeystream :
    readyV1.pend = .none ∧ readyV1.phase = .keystreaming ∧ PortHolds readyV1 ∧
    PortHolds { readyV1 with hostIn := [.command 0] } ∧
    (Instr.ksByte = .ksByte ∧ 5#4 = 5 ∧ 0#8 = 0) ∧
    (Instr.encryptByte 0xFF = .encryptByte 0xFF ∧ 6#4 = 6) ∧
    (Instr.decryptByte 0x00 = .decryptByte 0x00 ∧ 7#4 = 7) :=
  ⟨rfl, rfl, .inl rfl, .inr ⟨0, [], rfl⟩, by decide, by decide, by decide⟩
theorem witness_InitializeCompletes :
    let s := { constructedV2 with ivBuf := v2Iv, ivCount := 12 }
    let u := { constructedV2 with ivBuf := v2Key, ivSize := 128, ivCount := 16, phase := .failed }
    (s.pend = .none ∧ s.phase ≠ .empty ∧ s.ivCount.toNat = s.ivSize.toNat / 8 ∧ PortHolds s) ∧
    (u.pend = .none ∧ u.phase ≠ .empty ∧ u.ivCount.toNat = u.ivSize.toNat / 8 ∧ PortHolds u) :=
  ⟨⟨rfl, by decide, by decide, .inl rfl⟩, ⟨rfl, by decide, by decide, .inl rfl⟩⟩
theorem witness_WarmupEngineStep :
    (warming 254 []).pend = .warmup ∧ (warming 255 []).pend = .warmup ∧ 0 < 127 ∧ 126 < 127 := by
  decide
theorem witness_ByteEngineStep :
    (packing 6 []).pend = .byte ∧ (packing 7 []).pend = .byte ∧ 0 < 8 ∧ 7 < 8 := by decide
/-- A busy engine with a waiting command, with a quiet step, with an empty port; an idle one. -/
theorem witness_StepWithoutAcceptance :
    ((packing 0 [.command 0]).pend ≠ .none ∧ ¬ Resets (packing 0 [.command 0])) ∧
    ((warming 0 [.quiet]).pend ≠ .none ∧ ¬ Resets (warming 0 [.quiet])) ∧
    ((warming 0 []).pend ≠ .none ∧ ¬ Resets (warming 0 [])) ∧
    (readyV1.pend = .none ∧ readyV1.hostIn = []) ∧
    { readyV1 with hostIn := [.quiet, .reset] }.hostIn = .quiet :: [.reset] := by
  refine ⟨⟨by decide, ?_⟩, ⟨by decide, ?_⟩, ⟨by decide, ?_⟩, by decide, rfl⟩ <;>
    simp [Resets, packing, warming]
/-- The longest hold, the shortest, and those of a byte command. -/
theorem witness_BusyHoldEnds :
    (Inv (warming 0 [.command 0]) ∧ Inv (warming 255 [.command 0])) ∧
    (Inv (packing 0 [.command 0]) ∧ Inv (packing 7 [.command 0])) ∧
    (warming 0 [.command 0]).pend ≠ .none ∧ (packing 0 [.command 0]).pend = .byte :=
  ⟨⟨warming_inv _ _ (by decide), warming_inv _ _ (by decide)⟩,
    ⟨packing_inv _ _ (by decide), packing_inv _ _ (by decide)⟩, by decide, rfl⟩
theorem witness_StepLevelRefinesCommandLevel :
    readyV1.pend = .none ∧ decode 5 = .ok .ksByte ∧ constructedV2.pend = .none := by decide
theorem witness_StreamIsSequentialComposition :
    readyV1.pend = .none ∧ HostInput.reset ∉ [.command 5, .quiet, .command 0xFFFFFFFF] := by decide
theorem witness_ResetInputAbandons :
    (packing 3 [.reset, .command 0]).hostIn = .reset :: [.command 0] ∧
    (warming 3 [.reset]).hostIn = .reset :: [] := by decide
theorem witness_StepRunsDecodedCommand :
    let s := { readyV1 with hostIn := [.command 0x00005006, .reset] }
    s.pend = .none ∧ s.hostIn = .command 0x00005006 :: [.reset] ∧
      decode 0x00005006 = .ok (.encryptByte 0x50) := by decide
/-- The last step of a warm-up, from a state with the invariant. -/
theorem witness_StepKeepsStateInvariant :
    Inv (warming 255 []) ∧ ∃ t, step (warming 255 []) = .next t :=
  ⟨warming_inv _ _ (by decide), _, rfl⟩
theorem witness_StepKeepsSequencerInvariant :
    Inv (packing 0 []) ∧ SequencerInv (packing 0 []) ∧ ∃ t, step (packing 0 []) = .next t :=
  ⟨packing_inv _ _ (by decide), packing_seq _ _ (by decide), _, rfl⟩
/-- The last step of a byte command, whose answer carries a byte. -/
theorem witness_OnlyByteAnswersHaveDout :
    let s := packing 7 []
    SequencerInv s ∧ (∀ w ∈ s.lastRsp :: s.hostOut, Answer w) ∧ ∃ t, step s = .next t := by
  refine ⟨packing_seq _ _ (by decide), ?_, _, rfl⟩
  intro w hw
  refine ⟨4, .keystreaming, .ok, 0, ?_, by simp⟩
  simp [packing, readyV1, State.reset] at hw
  rw [hw]; decide
theorem witness_EveryCommandAnsweredOnce :
    ¬ Resets { readyV1 with hostIn := [.command 0] } ∧
    ∃ t, step { readyV1 with hostIn := [.command 0] } = .next t :=
  ⟨by simp [Resets], _, rfl⟩
/-- For each event of R26's table, a state where it happens. -/
theorem witness_PhaseChangesByTable :
    Resets (packing 3 [.reset]) ∧
    (let s := { State.reset with keyCount := 16, hostIn := [.command 0x0C100003] }
     Accepts s (.construct 128 96) ∧ ConstructSucceeds s 128 96) ∧
    (let s := { State.reset with keyCount := 17, hostIn := [.command 0x0C100003] }
     Accepts s (.construct 128 96) ∧ ¬ ConstructSucceeds s 128 96) ∧
    (let s := { State.reset with hostIn := [.command 4] }
     Accepts s .init ∧ s.phase = .empty) ∧
    (let s := { constructedV2 with ivCount := 12, hostIn := [.command 4] }
     Accepts s .init ∧ s.phase ≠ .empty ∧ s.ivCount.toNat = s.ivSize.toNat / 8) ∧
    (let s := { constructedV2 with ivCount := 13, hostIn := [.command 4] }
     Accepts s .init ∧ s.phase ≠ .empty ∧ s.ivCount.toNat ≠ s.ivSize.toNat / 8) ∧
    Accepts { readyV1 with hostIn := [.command 5] } .ksByte ∧
    Accepts { constructedV2 with hostIn := [.command 6] } (.encryptByte 0) ∧
    ((packing 7 []).pend = .byte ∧ ¬ Resets (packing 7 [])) ∧
    ((warming 255 []).pend = .warmup ∧ ¬ Resets (warming 255 []) ∧ (warming 255 []).warmCount = 255) :=
  ⟨⟨[], rfl⟩,
    ⟨⟨rfl, _, _, rfl, by decide⟩, by decide, .inl rfl, rfl⟩,
    ⟨⟨rfl, _, _, rfl, by decide⟩, by simp [ConstructSucceeds]⟩,
    ⟨⟨rfl, _, _, rfl, by decide⟩, rfl⟩,
    ⟨⟨rfl, _, _, rfl, by decide⟩, by decide, by decide⟩,
    ⟨⟨rfl, _, _, rfl, by decide⟩, by decide, by decide⟩,
    ⟨rfl, _, _, rfl, by decide⟩, ⟨rfl, _, _, rfl, by decide⟩,
    ⟨rfl, by simp [Resets, packing]⟩, ⟨rfl, by simp [Resets, warming], rfl⟩⟩
theorem witness_RegistersHaveFourWriters :
    (∃ t, step (warming 0 []) = .next t ∧ t.regs ≠ (warming 0 []).regs) ∧
    (∃ t, step (packing 0 []) = .next t ∧ t.regs ≠ (packing 0 []).regs) :=
  ⟨⟨_, rfl, by decide⟩, ⟨_, rfl, by decide⟩⟩
theorem witness_OnlyConstructWritesKey :
    let s := { readyV1 with keyBuf := v2Key, keyCount := 16, hostIn := [.command 0x0C100003] }
    ∃ t, step s = .next t ∧ t.key ≠ s.key := ⟨_, rfl, by decide⟩
/-- Two warm-ups with different registers and keys, and the steps they take. -/
theorem witness_SecretsStayHidden :
    let s := warming 255 []
    let t := { warming 255 [] with nfsr := 0, key := v2Key }
    publicPart s = publicPart t ∧ s ≠ t ∧ s.pend ≠ .byte ∧
      (∃ s', step s = .next s') ∧ ∃ t', step t = .next t' :=
  ⟨by decide, by decide, by decide, ⟨_, rfl⟩, ⟨_, rfl⟩⟩
theorem witness_ByteStepShowsOnlyDout :
    let s := packing 7 []
    let t := { packing 7 [] with nfsr := 0, acc := 0x7F, key := v2Key }
    publicPart s = publicPart t ∧ s ≠ t ∧ s.pend = .byte ∧
      (∃ s', step s = .next s') ∧ ∃ t', step t = .next t' :=
  ⟨by decide, by decide, by decide, ⟨_, rfl⟩, ⟨_, rfl⟩⟩
/-- The clause for a step that does not complete, at the last such step. -/
theorem witness_ByteStepShowsOnlyDout_before :
    let s := packing 6 []
    let t := { packing 6 [] with nfsr := 0, acc := 0x3F, key := v2Key }
    publicPart s = publicPart t ∧ s ≠ t ∧ s.pend = .byte ∧ s.bitCount ≠ 7 ∧
      (∃ s', step s = .next s') ∧ ∃ t', step t = .next t' :=
  ⟨by decide, by decide, by decide, by decide, ⟨_, rfl⟩, ⟨_, rfl⟩⟩
theorem witness_KeystreamBytesAreConsecutive :
    readyV1.pend = .none ∧ readyV1.phase = .keystreaming := by decide
/-- EMPTY, CONSTRUCTED and FAILED, idle. -/
theorem witness_LibraryNeedsKeystreaming :
    (State.reset.pend = .none ∧ State.reset.phase = .empty ∧ State.reset.phase ≠ .keystreaming) ∧
    (constructedV2.pend = .none ∧ constructedV2.phase ≠ .keystreaming) ∧
    (let f := { constructedV2 with phase := .failed }
     f.pend = .none ∧ f.phase ≠ .keystreaming) := by decide
theorem witness_DecryptInvertsEncrypt :
    readyV1.pend = .none ∧ readyV1.phase = .keystreaming ∧
    (let s' := { readyV1 with keyCount := 3, hostOut := [0] }
     s'.pend = .none ∧ s'.phase = .keystreaming ∧ s'.regs = readyV1.regs) := by decide
theorem witness_EncryptZerosIsKeystream :
    readyV1.pend = .none ∧ State.reset.pend = .none := by decide
/-- Each clause of the sizes, and key lengths 15, 16 and 17. -/
theorem witness_LibraryConstruct :
    State.reset.pend = .none ∧ State.reset.keyCount = 0 ∧ (129 % 8 ≠ 0 ∧ 97 % 8 ≠ 0 ∧ 2040 < 2048) ∧
    ¬ (2040 = 128 ∧ (2040 = 96 ∨ 2040 = 128)) ∧ (128 = 128 ∧ (96 = 96 ∨ 96 = 128)) ∧
    (List.replicate 15 (0 : Byte)).length ≠ 16 ∧ (List.replicate 16 (0 : Byte)).length = 16 ∧
    (List.replicate 17 (0 : Byte)).length ≠ 16 := by decide
/-- Both sizes, with lengths one short, right and one long. -/
theorem witness_LibraryInitialize :
    let u := { constructedV2 with ivSize := 128 }
    (constructedV2.pend = .none ∧ constructedV2.phase ≠ .empty ∧ constructedV2.ivCount = 0 ∧
      (constructedV2.ivSize = 96 ∨ constructedV2.ivSize = 128) ∧
      (List.replicate 11 (0 : Byte)).length ≠ constructedV2.ivSize.toNat / 8 ∧
      (List.replicate 12 (0 : Byte)).length = constructedV2.ivSize.toNat / 8 ∧
      (List.replicate 13 (0 : Byte)).length ≠ constructedV2.ivSize.toNat / 8) ∧
    (u.pend = .none ∧ u.phase ≠ .empty ∧ u.ivCount = 0 ∧ (u.ivSize = 96 ∨ u.ivSize = 128) ∧
      (List.replicate 12 (0 : Byte)).length ≠ u.ivSize.toNat / 8 ∧
      (List.replicate 16 (0 : Byte)).length = u.ivSize.toNat / 8) := by decide
theorem witness_BootSequenceReachesKeystreaming :
    State.reset.pend = .none ∧ State.reset.keyCount = 0 ∧ State.reset.ivCount = 0 ∧ v2Key.toList.length = 16 ∧
    (v2Iv.toList.take 12).length = 12 ∧ v2Iv.toList.length = 16 := by decide
theorem witness_AssemblerEncodesConstruct :
    asmConstruct 2040 0 = .ok (.construct 2040 0) ∧ asmConstruct 2048 0 = .error .sizeNotEncodable ∧
    asmConstruct 0 2041 = .error .sizeNotEncodable := by decide
theorem witness_BusCarriesWholeWords :
    [0#8, 1#8, 2#8, 3#8].length = 4 ∧ ([] : List Byte).length ≠ 4 ∧ [0#8, 0#8, 0#8].length ≠ 4 ∧ (List.replicate 5 0#8).length ≠ 4 := by
  decide
/-- Two engines of three, and a number that names none. -/
theorem witness_EnginesAreIndependent :
    let es := [warming 0 [], packing 0 [], readyV1]
    (∃ fs gs, stepEngine 0 es = .next fs ∧ stepEngine 1 fs = .next gs ∧ fs ≠ es ∧ (0 : Nat) ≠ 1) ∧
    stepEngine 3 es = .next es :=
  ⟨⟨_, _, rfl, rfl, by decide, by decide⟩, rfl⟩

end Sys2Proof.Tests
end

section
/-! PROOF. The step level refines the command level (R10): the sequencer run to its end in closed form, then
one command word from its acceptance to its response. -/

namespace Sys2Proof.Machine

/-! ### The sequencer run for several engine steps -/

/-- Engine steps compose. -/
theorem engineSteps_add (j k : Nat) (s : State) :
    engineSteps (j + k) s = engineSteps k (engineSteps j s) := by
  induction j generalizing s with
  | zero => rw [Nat.zero_add]; rfl
  | succ j ih => rw [Nat.succ_add, engineSteps, ih]; rfl

/-- An idle engine keeps its state however long it waits (R193). -/
theorem engineSteps_idle (k : Nat) (s : State) (h : s.pend = .none) : engineSteps k s = s := by
  induction k with
  | zero => rfl
  | succ k ih => rw [engineSteps, engineStep_idle s h, ih]

/-- Once the engine is idle, more engine steps add nothing. -/
theorem engineSteps_of_idle_at {j n : Nat} {s : State} (hj : j ≤ n)
    (h : (engineSteps j s).pend = .none) : engineSteps n s = engineSteps j s := by
  obtain ⟨k, rfl⟩ := Nat.exists_eq_add_of_le hj
  rw [engineSteps_add, engineSteps_idle k _ h]

/-- With an empty port the machine's steps are the sequencer's. -/
theorem run_eq_engineSteps (k : Nat) (s : State) (h : s.hostIn = []) :
    core.run k s = .next (engineSteps k s) := by
  induction k generalizing s with
  | zero => rfl
  | succ k ih =>
    have hstep : step s = .next (engineStep s) := by simp [step, cycle, h]
    rw [run_succ k s _ hstep, ih _ (by rw [engineStep_hostIn, h])]
    rfl

/-- The rest of a warm-up: the steps still to do are folded into the registers, and the INITIALIZE is
answered (R128, R129). -/
theorem engineSteps_warmup (k : Nat) (s : State) (hp : s.pend = .warmup)
    (hk : s.warmCount.toNat + (k + 1) = 256) :
    engineSteps (k + 1) s =
      warmupComplete { s.setRegs (warmSteps (k + 1) s.regs) with warmCount := 256 } := by
  rw [engineSteps, engineStep_warmup s hp]
  induction k generalizing s with
  | zero =>
    have hlast : s.warmCount = 255 := by bv_omega
    obtain ⟨-, he⟩ := (warmupEngineStep_eq s).resolve_left fun h => h.1 hlast
    have hcount : s.warmCount + 1 = 256 := by rw [hlast]; rfl
    rw [he, ← hcount]
    rfl
  | succ k ih =>
    have hmore : s.warmCount ≠ 255 := by bv_omega
    obtain ⟨-, he⟩ := (warmupEngineStep_eq s).resolve_right fun h => hmore h.1
    have hcount : (s.warmCount + 1).toNat + (k + 1) = 256 := by bv_omega
    rw [he, engineSteps, engineStep_warmup (warmupAdvance s) hp, ih (warmupAdvance s) hp hcount]
    rfl

/-- A bit packed at a position and later bits packed above it are one shifted byte (R52, R151). -/
theorem packBit_or_shift (acc : Byte) (n : BitVec 4) (b : Bool) (bs : List Bool) :
    packBit acc n b ||| byteOfBits bs <<< (n.toNat + 1) = acc ||| byteOfBits (b :: bs) <<< n.toNat := by
  rw [packBit, byteOfBits, BitVec.shiftLeft_or_distrib, ← BitVec.shiftLeft_add, Nat.add_comm 1,
    BitVec.or_assoc, BitVec.or_comm (byteOfBits bs <<< _)]

/-- The rest of a byte command: the bits still to come are packed above those in ACC, and the command is
answered (R151). -/
theorem engineSteps_byte (k : Nat) (s : State) (hp : s.pend = .byte)
    (hk : s.bitCount.toNat + (k + 1) = 8) :
    engineSteps (k + 1) s =
      byteComplete { s.setRegs (cipherSteps (k + 1) s.regs) with
        acc := s.acc ||| byteOfBits (keystreamBits (k + 1) s.regs) <<< s.bitCount.toNat
        bitCount := 8 } := by
  rw [engineSteps, engineStep_byte s hp]
  induction k generalizing s with
  | zero =>
    have hlast : s.bitCount = 7 := by bv_omega
    obtain ⟨-, he⟩ := (byteEngineStep_eq s).resolve_left fun h => h.1 hlast
    have hcount : s.bitCount + 1 = 8 := by rw [hlast]; rfl
    have hacc : (byteAdvance s).acc =
        s.acc ||| byteOfBits (keystreamBits 1 s.regs) <<< s.bitCount.toNat := by
      rw [keystreamBits, ← packBit_or_shift]
      simp [keystreamBits, byteOfBits]
    rw [he, ← hcount, ← hacc]
    rfl
  | succ k ih =>
    have hmore : s.bitCount ≠ 7 := by bv_omega
    obtain ⟨-, he⟩ := (byteEngineStep_eq s).resolve_right fun h => hmore h.1
    have hcount : (s.bitCount + 1).toNat = s.bitCount.toNat + 1 := by bv_omega
    have hacc : (byteAdvance s).acc |||
          byteOfBits (keystreamBits (k + 1) (byteAdvance s).regs) <<< (byteAdvance s).bitCount.toNat =
        s.acc ||| byteOfBits (keystreamBits (k + 2) s.regs) <<< s.bitCount.toNat := by
      rw [byteAdvance_bitCount, hcount]
      exact packBit_or_shift ..
    rw [he, engineSteps, engineStep_byte (byteAdvance s) hp,
      ih (byteAdvance s) hp (by rw [byteAdvance_bitCount, hcount]; omega), hacc]
    rfl

/-! ### One command from its acceptance to its response -/

/-- A byte command in an idle engine, whether it starts or is answered at once, ends in its one transition
within 256 engine steps (R152, R156). -/
theorem engineSteps_byteCommand (opc : BitVec 4) (d : Byte) (s : State) (h : s.pend = .none) :
    engineSteps 256 (byteCommand opc d s) = byteAtomic opc d s := by
  obtain ⟨hph, he⟩ | ⟨hph, he⟩ := byteCommand_eq opc d s
  · have h8 := engineSteps_byte 7 (startByte opc d s) rfl rfl
    rw [he, engineSteps_of_idle_at (show 7 + 1 ≤ 256 by omega) (by rw [h8]; rfl), h8]
    simp [byteAtomic, hph, h, byteComplete, startByte, respond, State.setRegs, State.regs, ksByteOf,
      Config.bitsPerByte]
  · rw [byteAtomic, if_neg hph, he]
    exact engineSteps_idle 256 _ h

/-- INITIALIZE in an idle engine ends in its one transition after 256 engine steps (R130). -/
theorem engineSteps_initEffect (s : State) (h : s.pend = .none) :
    engineSteps 256 (initEffect s) = initAtomic s := by
  obtain ⟨hph, he⟩ | ⟨hph, hiv, he⟩ | ⟨hph, hiv, he⟩ := initEffect_eq s
  · rw [initAtomic, if_pos (.inl hph), he]
    exact engineSteps_idle 256 _ h
  · rw [initAtomic, if_pos (.inr hiv), he]
    exact engineSteps_idle 256 _ h
  · rw [initAtomic, if_neg (by simp [hph, hiv]), he, engineSteps_warmup 255 _ rfl rfl]
    simp [h, warmupComplete, startWarmup, clearIvBuf, loadRegs, respond, State.setRegs, State.regs,
      Config.warmupSteps]

/-- CONSTRUCT is answered with its acceptance and leaves the engine idle (R120, R124). -/
theorem constructEffect_pend (ks ivs : BitVec 11) (s : State) :
    (constructEffect ks ivs s).pend = s.pend := by
  obtain ⟨-, e⟩ | ⟨-, -, e⟩ | ⟨-, -, e⟩ := constructEffect_eq ks ivs s <;> rw [e] <;> rfl

/-- A command accepted by an idle engine, and the 256 engine steps the longest one takes, are its one
transition (R120, R130, R152). -/
theorem engineSteps_acceptEffect (i : Instr) (s : State) (h : s.pend = .none) :
    engineSteps 256 (acceptEffect i s) = atomicCommand i s := by
  cases i with
  | nop => exact engineSteps_idle _ _ h
  | keyPush d => exact engineSteps_idle _ _ h
  | ivPush d => exact engineSteps_idle _ _ h
  | construct ks ivs => exact engineSteps_idle _ _ ((constructEffect_pend ks ivs s).trans h)
  | init => exact engineSteps_initEffect s h
  | ksByte => exact engineSteps_byteCommand 0x5 0 s h
  | encryptByte p => exact engineSteps_byteCommand 0x6 p s h
  | decryptByte c => exact engineSteps_byteCommand 0x7 c s h

/-- Accepting a command leaves what waits at the port. -/
theorem acceptEffect_hostIn (i : Instr) (s : State) : (acceptEffect i s).hostIn = s.hostIn := by
  have hbyte (opc : BitVec 4) (d : Byte) : (byteCommand opc d s).hostIn = s.hostIn := by
    obtain ⟨-, e⟩ | ⟨-, e⟩ := byteCommand_eq opc d s <;> rw [e] <;> rfl
  cases i with
  | nop => rfl
  | keyPush d => rfl
  | ivPush d => rfl
  | construct ks ivs =>
    show (constructEffect ks ivs s).hostIn = s.hostIn
    obtain ⟨-, e⟩ | ⟨-, -, e⟩ | ⟨-, -, e⟩ := constructEffect_eq ks ivs s <;> rw [e] <;> rfl
  | init =>
    show (initEffect s).hostIn = s.hostIn
    obtain ⟨-, e⟩ | ⟨-, -, e⟩ | ⟨-, -, e⟩ := initEffect_eq s <;> rw [e] <;> rfl
  | ksByte => exact hbyte 0x5 0
  | encryptByte p => exact hbyte 0x6 p
  | decryptByte c => exact hbyte 0x7 c

/-- A word accepted by an idle engine, legal or not, reaches in 256 engine steps what the command level
gives, and its acceptance leaves the port. -/
theorem acceptWord_reaches_commandLevel (w : Word) (s : State) (h : s.pend = .none) :
    ∃ t, acceptWord w s = .next t ∧ t.hostIn = s.hostIn ∧ engineSteps 256 t = commandLevel w s := by
  obtain ⟨i, hd, ha⟩ | ⟨e, hd, ha⟩ := acceptWord_idle w s h
  · refine ⟨_, ha, acceptEffect_hostIn i s, ?_⟩
    rw [engineSteps_acceptEffect i s h]
    simp only [commandLevel, hd]
  · refine ⟨_, ha, rfl, ?_⟩
    rw [engineSteps_idle 256 (illegalEffect w s) h]
    simp only [commandLevel, hd]

/-- An idle engine with a word at the port takes it and accepts it (R120). -/
theorem step_command_idle (s : State) (w : Word) (rest : List HostInput) (h : s.pend = .none) :
    step { s with hostIn := .command w :: rest } = acceptWord w { s with hostIn := rest } := by
  simp [step, cycle, State.busy, h, dropInput]

/-- Settles O27: the first step accepts the word, and the other 256 are the sequencer's alone, since the
port is empty then. -/
theorem stepLevelRefinesCommandLevel : Obligations.StepLevelRefinesCommandLevel := by
  unfold Obligations.StepLevelRefinesCommandLevel
  intro s w h
  obtain ⟨t, haccept, hport, hreach⟩ := acceptWord_reaches_commandLevel w { s with hostIn := [] } h
  have hstep := (step_command_idle s w [] h).trans haccept
  rw [run_succ 256 _ t hstep, run_eq_engineSteps 256 t hport, hreach]

end Sys2Proof.Machine
end

section
/-! PROOF. Everything a step can do, as three views: what a command's acceptance does, what the sequencer does,
and which of the two, or a reset, a step is. The proofs about every step are case splits over them. -/

namespace Sys2Proof.Machine

/-! ### Acceptance of a command -/

/-- The byte a byte command is started with, 0 for KS_BYTE (R153, R154, R155); no other command has one. -/
def byteOperand : Instr → Option Byte
  | .ksByte => some 0
  | .encryptByte p => some p
  | .decryptByte c => some c
  | .nop | .keyPush _ | .ivPush _ | .construct _ _ | .init => none

/-- The byte commands' opcodes, and KS_BYTE's operand (R30, R71). -/
theorem opcode_of_byteOperand {i : Instr} {d : Byte} (h : byteOperand i = some d) :
    (opcode i = 5 ∧ d = 0) ∨ opcode i = 6 ∨ opcode i = 7 := by
  cases i with
  | ksByte => exact .inl ⟨rfl, (Option.some.inj h).symm⟩
  | encryptByte p => exact .inr (.inl rfl)
  | decryptByte c => exact .inr (.inr rfl)
  | nop | keyPush | ivPush | construct | init => cases h

/-- What the acceptance of a command can do to an idle engine: one constructor per outcome. -/
inductive AcceptEvent (s : State) : Instr → State → Prop
  | nop : AcceptEvent s .nop (respond 0x0 .ok 0 s)
  | keyPush (d : Byte) : AcceptEvent s (.keyPush d) (respond 0x1 .ok 0 (pushKey d s))
  | ivPush (d : Byte) : AcceptEvent s (.ivPush d) (respond 0x2 .ok 0 (pushIv d s))
  | constructFails (ks ivs : BitVec 11) (r : Result) (hfail : ¬ ConstructSucceeds s ks ivs)
      (hr : r = .unsupportedConfiguration ∨ r = .invalidKeyLength) :
      AcceptEvent s (.construct ks ivs) (respond 0x3 r 0 (clearKeyBuf s))
  | constructs (ks ivs : BitVec 11) (hok : ConstructSucceeds s ks ivs) :
      AcceptEvent s (.construct ks ivs) (respond 0x3 .ok 0 (clearKeyBuf (constructed ivs s)))
  | initTooEarly (hempty : s.phase = .empty) :
      AcceptEvent s .init (respond 0x4 .notConstructed 0 (clearIvBuf s))
  | initFails (hready : s.phase ≠ .empty) (hlen : s.ivCount.toNat ≠ s.ivSize.toNat / 8) :
      AcceptEvent s .init (respond 0x4 .invalidIvLength 0 (failInit s))
  | initStarts (hready : s.phase ≠ .empty) (hlen : s.ivCount.toNat = s.ivSize.toNat / 8) :
      AcceptEvent s .init (startWarmup (clearIvBuf (loadRegs s)))
  | byteStarts (i : Instr) (d : Byte) (hbyte : byteOperand i = some d) (hph : s.phase = .keystreaming) :
      AcceptEvent s i (startByte (opcode i) d s)
  | byteRefused (i : Instr) (d : Byte) (hbyte : byteOperand i = some d) (hph : s.phase ≠ .keystreaming) :
      AcceptEvent s i (respond (opcode i) .notInitialized 0 s)

/-- CONSTRUCT succeeds exactly when both of its checks pass (R124). -/
theorem constructSucceeds_iff (s : State) (ks ivs : BitVec 11) :
    ConstructSucceeds s ks ivs ↔ supported ks ivs = true ∧ s.keyCount.toNat = 16 := by
  have hcount : s.keyCount = 16 ↔ s.keyCount.toNat = 16 := ⟨fun h => by rw [h]; rfl, fun h => by bv_omega⟩
  rw [ConstructSucceeds, supported_iff, hcount, and_assoc]

/-- A byte command starts or is refused by PHASE (R153, R156). -/
theorem byteCommand_acceptEvent {i : Instr} {d : Byte} (s : State) (h : byteOperand i = some d) :
    AcceptEvent s i (byteCommand (opcode i) d s) := by
  obtain ⟨hph, e⟩ | ⟨hph, e⟩ := byteCommand_eq (opcode i) d s <;> rw [e]
  · exact .byteStarts i d h hph
  · exact .byteRefused i d h hph

/-- The effect of every command's acceptance is one of these outcomes. -/
theorem acceptEffect_acceptEvent (i : Instr) (s : State) : AcceptEvent s i (acceptEffect i s) := by
  cases i with
  | nop => exact .nop
  | keyPush d => exact .keyPush d
  | ivPush d => exact .ivPush d
  | construct ks ivs =>
    show AcceptEvent s _ (constructEffect ks ivs s)
    obtain ⟨hsup, e⟩ | ⟨-, hcount, e⟩ | ⟨hsup, hcount, e⟩ := constructEffect_eq ks ivs s <;> rw [e]
    · exact .constructFails ks ivs _ (by simp [constructSucceeds_iff, hsup]) (.inl rfl)
    · exact .constructFails ks ivs _ (by simp [constructSucceeds_iff, hcount]) (.inr rfl)
    · exact .constructs ks ivs ((constructSucceeds_iff s ks ivs).2 ⟨hsup, hcount⟩)
  | init =>
    show AcceptEvent s _ (initEffect s)
    obtain ⟨hph, e⟩ | ⟨hph, hlen, e⟩ | ⟨hph, hlen, e⟩ := initEffect_eq s <;> rw [e]
    · exact .initTooEarly hph
    · exact .initFails hph (by simp [← ivLengthOk_iff, hlen])
    · exact .initStarts hph ((ivLengthOk_iff s).1 hlen)
  | ksByte => exact byteCommand_acceptEvent s rfl
  | encryptByte p => exact byteCommand_acceptEvent s rfl
  | decryptByte c => exact byteCommand_acceptEvent s rfl

/-! ### The sequencer -/

/-- What an engine step of the sequencer can do: one constructor per outcome. -/
inductive SequencerEvent (s : State) : State → Prop
  | idle (hp : s.pend = .none) : SequencerEvent s s
  | warms (hp : s.pend = .warmup) (hmore : s.warmCount ≠ 255) : SequencerEvent s (warmupAdvance s)
  | warmsLast (hp : s.pend = .warmup) (hlast : s.warmCount = 255) :
      SequencerEvent s (warmupComplete (warmupAdvance s))
  | packs (hp : s.pend = .byte) (hmore : s.bitCount ≠ 7) : SequencerEvent s (byteAdvance s)
  | packsLast (hp : s.pend = .byte) (hlast : s.bitCount = 7) :
      SequencerEvent s (byteComplete (byteAdvance s))

/-- Every engine step is one of these outcomes. -/
theorem engineStep_sequencerEvent (s : State) : SequencerEvent s (engineStep s) := by
  cases hp : s.pend with
  | none => rw [engineStep_idle s hp]; exact .idle hp
  | warmup =>
    rw [engineStep_warmup s hp]
    obtain ⟨hc, e⟩ | ⟨hc, e⟩ := warmupEngineStep_eq s <;> rw [e]
    · exact .warms hp hc
    · exact .warmsLast hp hc
  | byte =>
    rw [engineStep_byte s hp]
    obtain ⟨hc, e⟩ | ⟨hc, e⟩ := byteEngineStep_eq s <;> rw [e]
    · exact .packs hp hc
    · exact .packsLast hp hc

/-- PEND has three values (R30). -/
theorem pend_cases (p : Pend) : p = .none ∨ p = .warmup ∨ p = .byte := by
  cases p <;> simp

/-- The sequencer does not read the port. -/
theorem engineStep_withPort (s : State) (port : List HostInput) :
    engineStep { s with hostIn := port } = { engineStep s with hostIn := port } := by
  obtain hp | hp | hp := pend_cases s.pend
  · rw [engineStep_idle s hp, engineStep_idle { s with hostIn := port } hp]
  · rw [engineStep_warmup s hp, engineStep_warmup { s with hostIn := port } hp, warmupEngineStep,
      warmupEngineStep, warmupAdvance_warmCount, warmupAdvance_warmCount]
    split_ifs <;> rfl
  · rw [engineStep_byte s hp, engineStep_byte { s with hostIn := port } hp, byteEngineStep,
      byteEngineStep, byteAdvance_bitCount, byteAdvance_bitCount]
    split_ifs <;> rfl

/-! ### One step -/

/-- What a step can be: a reset, a step of the sequencer, or the acceptance of a word, legal or illegal. -/
inductive StepEvent (s : State) : State → Prop
  | reset (hr : Resets s) : StepEvent s (applyReset (dropInput s))
  | sequence (hr : ¬ Resets s) (t : State) (hseq : SequencerEvent s t) :
      StepEvent s { t with hostIn := afterBusyStep s.hostIn }
  | accept (i : Instr) (ha : Accepts s i) (t : State) (hev : AcceptEvent (dropInput s) i t) :
      StepEvent s t
  | illegal (w : Word) (rest : List HostInput) (hp : s.pend = .none)
      (hport : s.hostIn = .command w :: rest) : StepEvent s (illegalEffect w (dropInput s))

/-- With no reset and no command to accept, a step is the sequencer's and the port moves on. -/
theorem engineStep_stepEvent (s : State) (port : List HostInput) (hr : ¬ Resets s)
    (hport : afterBusyStep s.hostIn = port) : StepEvent s (engineStep { s with hostIn := port }) := by
  rw [engineStep_withPort, ← hport]
  exact .sequence hr _ (engineStep_sequencerEvent s)

/-- Every step is one of these. -/
theorem step_stepEvent {s t : State} (h : step s = .next t) : StepEvent s t := by
  obtain ⟨hport, rfl⟩ | ⟨rest, hport, rfl⟩ | ⟨rest, hport, rfl⟩ | ⟨w, rest, hport, -, rfl⟩ |
    ⟨w, rest, i, hport, hp, hd, rfl⟩ | ⟨w, rest, e, hport, hp, -, rfl⟩ := step_cases s t h
  · exact engineStep_stepEvent s s.hostIn (by simp [Resets, hport]) (by rw [hport]; rfl)
  · exact engineStep_stepEvent s s.hostIn.tail (by simp [Resets, hport]) (by rw [hport]; rfl)
  · exact .reset ⟨rest, hport⟩
  · exact engineStep_stepEvent s s.hostIn (by simp [Resets, hport]) (by rw [hport]; rfl)
  · exact .accept i ⟨hp, w, rest, hport, hd⟩ _ (acceptEffect_acceptEvent i _)
  · exact .illegal w rest hp hport

end Sys2Proof.Machine
end

section
/-! PROOF. The invariants of R36 and of the sequencer's fields (R29, R30): the reset state has them, and each
outcome of an acceptance and of an engine step keeps them, so every step does. -/

namespace Sys2Proof.Machine

/-! ### What the invariants do not read -/

/-- The invariants of R36 do not read LAST_RSP or the port. -/
theorem Inv.withPort {s : State} (h : Inv s) (w : Word) (ins : List HostInput) (outs : List Word) :
    Inv { s with lastRsp := w, hostIn := ins, hostOut := outs } :=
  { h with }

/-- The sequencer's invariants do not read LAST_RSP or the port. -/
theorem SequencerInv.withPort {s : State} (h : SequencerInv s) (w : Word) (ins : List HostInput)
    (outs : List Word) : SequencerInv { s with lastRsp := w, hostIn := ins, hostOut := outs } :=
  { h with }

/-! ### The reset state -/

/-- The reset state has the invariants of R36. -/
theorem inv_reset : Inv State.reset where
  emptyIsClean _ := ⟨rfl, rfl, rfl, rfl, rfl⟩
  sizesSupported h := absurd rfl h
  warmupPhase := by decide
  bytePhase h := nomatch h
  warmupRoom h := nomatch h
  byteRoom h := nomatch h
  keyBufTail i hi _ := zeroBlock_getElem i hi
  ivBufTail i hi _ := zeroBlock_getElem i hi

/-- The reset state has the sequencer's invariants. -/
theorem sequencerInv_reset : SequencerInv State.reset where
  warmRange := by decide
  bitRange := by decide
  warmKept h := nomatch h
  byteOpcode h := nomatch h
  ksData h := nomatch h
  accTail h := nomatch h

/-- Settles O33. -/
theorem resetHasInvariants : Obligations.ResetHasInvariants :=
  ⟨inv_reset, sequencerInv_reset⟩

/-! ### The transfer buffers (R36 (h)) -/

/-- A cleared buffer holds zero bytes from its count on. -/
theorem zeroBlock_tail (n : Nat) : ∀ (i : Nat) (h : i < 16), n ≤ i → zeroBlock[i] = 0 :=
  fun i h _ => zeroBlock_getElem i h

/-- A push keeps a buffer zero from its count on (R122, R123). -/
theorem pushByte_tail {buf : Block} {count : BitVec 8} (d : Byte)
    (h : ∀ (i : Nat) (hi : i < 16), count.toNat ≤ i → buf[i] = 0) :
    ∀ (i : Nat) (hi : i < 16), (satInc count).toNat ≤ i → (pushByte buf count d)[i] = 0 := by
  intro i hi hle
  rw [satInc_toNat] at hle
  rw [pushByte_getElem buf count d i hi, if_neg (by omega)]
  exact h i hi (by omega)

/-! ### The invariants of R36 -/

/-- A supported IV size fits the 8 bits of IVSIZE (R124). -/
theorem ivSize_supported {s : State} {ks ivs : BitVec 11} (h : ConstructSucceeds s ks ivs) :
    ivs.setWidth 8 = 96#8 ∨ ivs.setWidth 8 = 128#8 := by
  obtain ⟨-, rfl | rfl, -⟩ := h
  · exact .inl rfl
  · exact .inr rfl

/-- Accepting a command keeps the invariants of R36. -/
theorem AcceptEvent.inv {s t : State} {i : Instr} (hev : AcceptEvent s i t) (hp : s.pend = .none)
    (h : Inv s) : Inv t := by
  cases hev with
  | nop => exact h.withPort ..
  | keyPush d =>
    have hpush : Inv (pushKey d s) := { h with keyBufTail := pushByte_tail d h.keyBufTail }
    exact hpush.withPort ..
  | ivPush d =>
    have hpush : Inv (pushIv d s) := { h with ivBufTail := pushByte_tail d h.ivBufTail }
    exact hpush.withPort ..
  | constructFails ks ivs r =>
    have hclear : Inv (clearKeyBuf s) := { h with keyBufTail := zeroBlock_tail _ }
    exact hclear.withPort ..
  | constructs ks ivs hok =>
    have hclear : Inv (clearKeyBuf (constructed ivs s)) :=
      { emptyIsClean := fun hph => nomatch hph
        sizesSupported := fun _ => ⟨rfl, ivSize_supported hok⟩
        warmupPhase := by simp [hp]
        bytePhase := by simp [hp]
        warmupRoom := h.warmupRoom
        byteRoom := h.byteRoom
        keyBufTail := zeroBlock_tail _
        ivBufTail := h.ivBufTail }
    exact hclear.withPort ..
  | initTooEarly =>
    have hclear : Inv (clearIvBuf s) := { h with ivBufTail := zeroBlock_tail _ }
    exact hclear.withPort ..
  | initFails hready hlen =>
    have hfail : Inv (failInit s) :=
      { h with
        emptyIsClean := fun hph => nomatch hph
        sizesSupported := fun _ => h.sizesSupported hready
        warmupPhase := by simp [hp]
        bytePhase := by simp [hp]
        ivBufTail := zeroBlock_tail _ }
    exact hfail.withPort ..
  | initStarts hready hlen =>
    exact
      { emptyIsClean := fun hph => nomatch hph
        sizesSupported := fun _ => h.sizesSupported hready
        warmupPhase := by simp
        bytePhase := fun hb => nomatch hb
        warmupRoom := fun _ => by simp
        byteRoom := fun hb => nomatch hb
        keyBufTail := h.keyBufTail
        ivBufTail := zeroBlock_tail _ }
  | byteStarts i d hbyte hph =>
    exact
      { h with
        warmupPhase := by simp [hph]
        bytePhase := fun _ => hph
        warmupRoom := fun hw => nomatch hw
        byteRoom := fun _ => by simp }
  | byteRefused => exact h.withPort ..

/-- WARM_COUNT before the last warm-up step, counted. -/
theorem warmCount_add_one {c : BitVec 9} (hroom : c.toNat < 256) (hmore : c ≠ 255) :
    (c + 1).toNat = c.toNat + 1 ∧ c.toNat + 1 < 256 := by
  bv_omega

/-- BIT_COUNT before the last byte step, counted. -/
theorem bitCount_add_one {c : BitVec 4} (hroom : c.toNat < 8) (hmore : c ≠ 7) :
    (c + 1).toNat = c.toNat + 1 ∧ c.toNat + 1 < 8 := by
  bv_omega

/-- An engine step of the sequencer keeps the invariants of R36. -/
theorem SequencerEvent.inv {s t : State} (hev : SequencerEvent s t) (h : Inv s) : Inv t := by
  cases hev with
  | idle => exact h
  | warms hp hmore =>
    have hph := h.warmupPhase.1 hp
    obtain ⟨hcount, hlt⟩ := warmCount_add_one (h.warmupRoom hp) hmore
    exact
      { h with
        emptyIsClean := by simp [hph]
        warmupRoom := fun _ => hcount.trans_lt hlt }
  | warmsLast hp =>
    have hph := h.warmupPhase.1 hp
    exact
      { h with
        emptyIsClean := fun he => nomatch he
        sizesSupported := fun _ => h.sizesSupported (by simp [hph])
        warmupPhase := by simp
        bytePhase := fun hb => nomatch hb
        warmupRoom := fun hw => nomatch hw
        byteRoom := fun hb => nomatch hb }
  | packs hp hmore =>
    have hph := h.bytePhase hp
    obtain ⟨hcount, hlt⟩ := bitCount_add_one (h.byteRoom hp) hmore
    exact
      { h with
        emptyIsClean := by simp [hph]
        byteRoom := fun _ => hcount.trans_lt hlt }
  | packsLast hp =>
    have hph := h.bytePhase hp
    exact
      { h with
        emptyIsClean := by simp [hph]
        warmupPhase := by simp [hph]
        bytePhase := fun hb => nomatch hb
        warmupRoom := fun hw => nomatch hw
        byteRoom := fun hb => nomatch hb }

/-- Settles O34, by the outcomes of a step; the port is read by no invariant. -/
theorem stepKeepsStateInvariant : Obligations.StepKeepsStateInvariant := by
  intro s t h hstep
  have hdrop : Inv (dropInput s) := h.withPort ..
  cases step_stepEvent hstep with
  | reset => exact inv_reset.withPort ..
  | sequence _ t hseq => exact (hseq.inv h).withPort ..
  | accept i ha t hev => exact hev.inv ha.1 hdrop
  | illegal => exact hdrop.withPort ..

/-! ### The sequencer's fields -/

/-- Only a command's start writes the sequencer's fields at acceptance, in their ranges (R127, R153). -/
theorem AcceptEvent.sequencerInv {s t : State} {i : Instr} (hev : AcceptEvent s i t)
    (h : SequencerInv s) : SequencerInv t := by
  cases hev with
  | nop | byteRefused => exact h.withPort ..
  | keyPush | ivPush | constructFails | initTooEarly => exact { h with }
  | constructs | initFails => exact { h with warmKept := fun hph => nomatch hph }
  | initStarts =>
    exact
      { warmRange := by simp
        bitRange := h.bitRange
        warmKept := fun hph => nomatch hph
        byteOpcode := fun hb => nomatch hb
        ksData := fun hb => nomatch hb
        accTail := fun hb => nomatch hb }
  | byteStarts i d hbyte hph =>
    have hopc := opcode_of_byteOperand hbyte
    exact
      { h with
        bitRange := by simp
        byteOpcode := fun _ => hopc.imp_left And.left
        ksData := fun _ h5 => by
          have h5 : opcode i = 5 := h5
          simpa [h5] using hopc
        accTail := fun _ k _ => BitVec.getLsbD_zero }

/-- A bit packed at BIT_COUNT leaves ACC zero beyond it (R151). -/
theorem packBit_tail {acc : Byte} {c : BitVec 4} (b : Bool)
    (h : ∀ k, c.toNat ≤ k → acc.getLsbD k = false) :
    ∀ k, c.toNat + 1 ≤ k → (packBit acc c b).getLsbD k = false := by
  intro k hk
  by_cases hlt : k < 8
  · rw [packBit_getLsbD acc c b k hlt, h k (by omega)]
    simp [show k ≠ c.toNat by omega]
  · exact BitVec.getLsbD_of_ge _ _ (by omega)

/-- An engine step counts its own fields within their ranges (R128, R129, R151). -/
theorem SequencerEvent.sequencerInv {s t : State} (hev : SequencerEvent s t) (hinv : Inv s)
    (h : SequencerInv s) : SequencerInv t := by
  cases hev with
  | idle => exact h
  | warms hp hmore =>
    obtain ⟨hcount, hlt⟩ := warmCount_add_one (hinv.warmupRoom hp) hmore
    exact
      { h with
        warmRange := hcount.trans_le hlt.le
        warmKept := by simp [hinv.warmupPhase.1 hp] }
  | warmsLast hp hlast =>
    exact
      { warmRange := by simp [hlast]
        bitRange := h.bitRange
        warmKept := fun _ => by simp [hlast]
        byteOpcode := fun hb => nomatch hb
        ksData := fun hb => nomatch hb
        accTail := fun hb => nomatch hb }
  | packs hp hmore =>
    obtain ⟨hcount, hlt⟩ := bitCount_add_one (hinv.byteRoom hp) hmore
    exact
      { h with
        bitRange := hcount.trans_le hlt.le
        accTail := fun _ k hk => packBit_tail _ (h.accTail hp) k (hcount.symm.trans_le hk) }
  | packsLast hp hlast =>
    exact
      { h with
        bitRange := by simp [hlast]
        byteOpcode := fun hb => nomatch hb
        ksData := fun hb => nomatch hb
        accTail := fun hb => nomatch hb }

/-- Settles O35, by the outcomes of a step. -/
theorem stepKeepsSequencerInvariant : Obligations.StepKeepsSequencerInvariant := by
  intro s t hinv h hstep
  have hdrop : SequencerInv (dropInput s) := h.withPort ..
  cases step_stepEvent hstep with
  | reset => exact sequencerInv_reset.withPort ..
  | sequence _ t hseq => exact (hseq.sequencerInv hinv h).withPort ..
  | accept i ha t hev => exact hev.sequencerInv hdrop
  | illegal => exact hdrop.withPort ..

end Sys2Proof.Machine
end

section
/-! PROOF. What the host sees (R37, R131): a step's public part is a function of the public part before it,
except for the DOUT of the answer that ends a byte command. -/

namespace Sys2Proof.Machine

/-! ### A step as a function -/

/-- The state an idle engine is in after it accepts a word. -/
def acceptState (w : Word) (s : State) : State :=
  match decode w with
  | .ok i => acceptEffect i s
  | .error _ => illegalEffect w s

/-- The state after one engine step, which no step fails to reach. -/
def nextState (s : State) : State :=
  match s.hostIn with
  | [] => engineStep s
  | .quiet :: _ => engineStep (dropInput s)
  | .reset :: _ => applyReset (dropInput s)
  | .command w :: _ => if s.busy then engineStep s else acceptState w (dropInput s)

/-- An idle engine accepts every word. -/
theorem acceptWord_eq_acceptState (w : Word) (s : State) (h : s.pend = .none) :
    acceptWord w s = .next (acceptState w s) := by
  obtain ⟨i, hd, ha⟩ | ⟨e, hd, ha⟩ := acceptWord_idle w s h <;> simp only [ha, acceptState, hd]

/-- Every step answers a next state. -/
theorem step_eq_nextState (s : State) : step s = .next (nextState s) := by
  unfold step cycle nextState
  rcases s.hostIn with - | ⟨_ | w | _, rest⟩
  · rfl
  · rfl
  · by_cases hp : s.pend = .none
    · simp [hp, acceptWord_eq_acceptState w (dropInput s) hp]
    · simp [busy_of_pend s hp]
  · rfl

/-- A step's answer is the next state. -/
theorem eq_nextState {s t : State} (h : step s = .next t) : t = nextState s := by
  rw [step_eq_nextState] at h
  cases h; rfl

/-! ### The public part -/

@[simp] theorem publicPart_keyCount (s : State) : (publicPart s).keyCount = s.keyCount := rfl
@[simp] theorem publicPart_phase (s : State) : (publicPart s).phase = s.phase := rfl
@[simp] theorem publicPart_warmCount (s : State) : (publicPart s).warmCount = s.warmCount := rfl
@[simp] theorem publicPart_hostIn (s : State) : (publicPart s).hostIn = s.hostIn := rfl
@[simp] theorem publicPart_busy (s : State) : (publicPart s).busy = s.busy := rfl
@[simp] theorem publicPart_ivLengthOk (s : State) : ivLengthOk (publicPart s) = ivLengthOk s := rfl

/-- What the host sees is public (R37). -/
theorem hostView_publicPart (s : State) : hostView (publicPart s) = hostView s := rfl

/-- What the acceptance of a command makes public depends on nothing secret: its checks read sizes, counts
and PHASE only. -/
theorem publicPart_acceptEffect (i : Instr) (s : State) :
    publicPart (acceptEffect i s) = publicPart (acceptEffect i (publicPart s)) := by
  have hbyte (opc : BitVec 4) (d : Byte) :
      publicPart (byteCommand opc d s) = publicPart (byteCommand opc d (publicPart s)) := by
    rw [byteCommand, byteCommand, publicPart_phase]
    split_ifs <;> rfl
  cases i with
  | nop => rfl
  | keyPush d => rfl
  | ivPush d => rfl
  | construct ks ivs =>
    show publicPart (constructEffect ks ivs s) = publicPart (constructEffect ks ivs (publicPart s))
    rw [constructEffect, constructEffect, publicPart_keyCount]
    split_ifs <;> rfl
  | init =>
    show publicPart (initEffect s) = publicPart (initEffect (publicPart s))
    rw [initEffect, initEffect, publicPart_phase, publicPart_ivLengthOk]
    split_ifs <;> rfl
  | ksByte => exact hbyte 0x5 0
  | encryptByte p => exact hbyte 0x6 p
  | decryptByte c => exact hbyte 0x7 c

/-- What the acceptance of a word makes public depends on nothing secret. -/
theorem publicPart_acceptState (w : Word) (s : State) :
    publicPart (acceptState w s) = publicPart (acceptState w (publicPart s)) := by
  unfold acceptState
  cases decode w with
  | ok i => exact publicPart_acceptEffect i s
  | error e => rfl

/-- The next engine step ends a byte command: the one step whose answer carries an output byte (R151). -/
def EndsByte (s : State) : Prop := s.pend = .byte ∧ s.bitCount = 7

/-- What an engine step makes public depends on nothing secret, unless it ends a byte command. -/
theorem publicPart_engineStep (s : State) (h : ¬ EndsByte s) :
    publicPart (engineStep s) = publicPart (engineStep (publicPart s)) := by
  obtain hp | hp | hp := pend_cases s.pend
  · rw [engineStep_idle s hp, engineStep_idle (publicPart s) hp]
    rfl
  · rw [engineStep_warmup s hp, engineStep_warmup (publicPart s) hp, warmupEngineStep, warmupEngineStep,
      warmupAdvance_warmCount, warmupAdvance_warmCount, publicPart_warmCount]
    split_ifs <;> rfl
  · have hmore : s.bitCount ≠ 7 := fun hb => h ⟨hp, hb⟩
    obtain ⟨-, e⟩ := (byteEngineStep_eq s).resolve_right fun hlast => hmore hlast.1
    obtain ⟨-, e'⟩ := (byteEngineStep_eq (publicPart s)).resolve_right fun hlast => hmore hlast.1
    rw [engineStep_byte s hp, engineStep_byte (publicPart s) hp, e, e']
    rfl

/-- What a step makes public depends on nothing secret, unless it ends a byte command. -/
theorem publicPart_nextState (s : State) (h : ¬ EndsByte s) :
    publicPart (nextState s) = publicPart (nextState (publicPart s)) := by
  unfold nextState
  rw [publicPart_hostIn, publicPart_busy]
  rcases s.hostIn with - | ⟨_ | w | _, rest⟩
  · exact publicPart_engineStep s h
  · exact publicPart_engineStep (dropInput s) h
  · cases s.busy with
    | true => exact publicPart_engineStep s h
    | false => exact publicPart_acceptState w (dropInput s)
  · rfl

/-- Two states alike in public, neither at the end of a byte command, stay alike and look alike. -/
theorem publicPart_step_eq {s t s' t' : State} (heq : publicPart s = publicPart t) (h : ¬ EndsByte s)
    (hs : step s = .next s') (ht : step t = .next t') :
    publicPart s' = publicPart t' ∧ hostView s' = hostView t' := by
  have h' : ¬ EndsByte t := by
    have hpub : EndsByte (publicPart s) = EndsByte (publicPart t) := congrArg EndsByte heq
    exact fun e => h (hpub.mpr e)
  have hpublic : publicPart s' = publicPart t' := by
    rw [eq_nextState hs, eq_nextState ht, publicPart_nextState s h, publicPart_nextState t h', heq]
  exact ⟨hpublic, by rw [← hostView_publicPart s', hpublic, hostView_publicPart]⟩

/-- Settles O41: outside a byte command no step ends one. -/
theorem secretsStayHidden : Obligations.SecretsStayHidden :=
  fun _ _ _ _ heq hp hs ht => publicPart_step_eq heq (fun hend => hp hend.1) hs ht

/-! ### The answer of a byte command, but for DOUT -/

/-- The public part with every answer's DOUT dropped (R76). -/
def publicButDout (s : State) : State :=
  { publicPart s with lastRsp := s.lastRsp >>> 8, hostOut := s.hostOut.map (fun w : Word => w >>> 8) }

/-- What is public but for DOUT is public. -/
theorem publicButDout_publicPart (s : State) : publicButDout (publicPart s) = publicButDout s := rfl

/-- An answer but for its DOUT (R76). -/
theorem responseWord_shift (opc : BitVec 4) (p : Phase) (r : Result) (d : Byte) :
    responseWord opc p r d >>> 8 = responseWord opc p r 0 >>> 8 := by
  apply BitVec.eq_of_getLsbD_eq
  intro k _
  simp only [BitVec.getLsbD_ushiftRight, responseWord_getLsbD, show ¬ 8 + k < 8 by omega, if_false]

/-- The end of a byte command shows nothing secret but DOUT (R151). -/
theorem publicButDout_byteComplete (s : State) :
    publicButDout (byteComplete s) = publicButDout (byteComplete (publicPart s)) := by
  have hword : responseWord s.pendOpc s.phase .ok (s.acc ^^^ s.pendData) >>> 8 =
      responseWord s.pendOpc s.phase .ok (0 ^^^ 0) >>> 8 :=
    (responseWord_shift ..).trans (responseWord_shift ..).symm
  simp only [publicButDout, byteComplete_lastRsp, byteComplete_hostOut, List.map_append, List.map_cons,
    hword]
  rfl

/-- A step that ends a byte command shows nothing secret but DOUT. -/
theorem publicButDout_engineStep (s : State) (h : EndsByte s) :
    publicButDout (engineStep s) = publicButDout (engineStep (publicPart s)) := by
  obtain ⟨hp, hlast⟩ := h
  obtain ⟨-, e⟩ := (byteEngineStep_eq s).resolve_left fun hmore => hmore.1 hlast
  obtain ⟨-, e'⟩ := (byteEngineStep_eq (publicPart s)).resolve_left fun hmore => hmore.1 hlast
  rw [engineStep_byte s hp, engineStep_byte (publicPart s) hp, e, e', publicButDout_byteComplete,
    publicButDout_byteComplete (byteAdvance (publicPart s))]
  rfl

/-- No step shows anything secret but a DOUT. -/
theorem publicButDout_nextState (s : State) :
    publicButDout (nextState s) = publicButDout (nextState (publicPart s)) := by
  by_cases h : EndsByte s
  · have hbusy : s.busy = true := busy_of_pend s (by simp [h.1])
    unfold nextState
    rw [publicPart_hostIn, publicPart_busy, hbusy]
    rcases s.hostIn with - | ⟨_ | w | _, rest⟩
    · exact publicButDout_engineStep s h
    · exact publicButDout_engineStep (dropInput s) h
    · exact publicButDout_engineStep s h
    · rfl
  · rw [← publicButDout_publicPart, publicPart_nextState s h, publicButDout_publicPart]

/-- Settles O42: what agrees is a function of `publicButDout`; before the last step no byte command ends. -/
theorem byteStepShowsOnlyDout : Obligations.ByteStepShowsOnlyDout := by
  intro s t s' t' heq _ hs ht
  have hdout : publicButDout s' = publicButDout t' := by
    rw [eq_nextState hs, eq_nextState ht, publicButDout_nextState, publicButDout_nextState t, heq]
  exact ⟨(congrArg statusWord hdout :), (congrArg State.lastRsp hdout :), (congrArg State.hostOut hdout :),
    (congrArg (fun u : State => { u with lastRsp := 0, hostOut := [] }) hdout :),
    fun hmore => publicPart_step_eq heq (fun hend => hmore hend.2) hs ht⟩

end Sys2Proof.Machine
end

section
/-! PROOF. Who may change what: the answers and the count of commands (R32, R181), the registers (R20, R21), the
key and its sizes (R22 to R24) and PHASE (R26), each by the outcomes of a step. -/

namespace Sys2Proof.Machine

/-! ### Answers (R32, R181) -/

/-- Nothing is answered between two states. -/
def Unanswered (s t : State) : Prop := t.hostOut = s.hostOut ∧ t.lastRsp = s.lastRsp

/-- One word is delivered, and written to LAST_RSP. -/
def AnsweredOnce (s t : State) : Prop := t.hostOut = s.hostOut ++ [t.lastRsp]

/-- An accepted command is in progress or answered: never both, never neither. -/
theorem AcceptEvent.answers {s t : State} {i : Instr} (hev : AcceptEvent s i t) (hp : s.pend = .none) :
    (t.pend ≠ .none ∧ Unanswered s t) ∨ (t.pend = .none ∧ AnsweredOnce s t) := by
  cases hev with
  | initStarts | byteStarts => exact .inl ⟨by simp, rfl, rfl⟩
  | nop | keyPush | ivPush | constructFails | constructs | initTooEarly | initFails | byteRefused =>
    exact .inr ⟨hp, rfl⟩

/-- The sequencer answers the command in progress exactly when it ends it. -/
theorem SequencerEvent.answers {s t : State} (hev : SequencerEvent s t) :
    (t.pend = s.pend ∧ Unanswered s t) ∨ (s.pend ≠ .none ∧ t.pend = .none ∧ AnsweredOnce s t) := by
  cases hev with
  | idle | warms | packs => exact .inl ⟨rfl, rfl, rfl⟩
  | warmsLast hp | packsLast hp => exact .inr ⟨by simp [hp], rfl, rfl⟩

/-- Accepting a command leaves what waits behind it at the port. -/
theorem AcceptEvent.hostIn {s t : State} {i : Instr} (hev : AcceptEvent s i t) : t.hostIn = s.hostIn := by
  cases hev <;> rfl

/-- A step of the sequencer takes no command from the port. -/
theorem waiting_afterBusyStep (ins : List HostInput) : waiting (afterBusyStep ins) = waiting ins := by
  rcases ins with - | ⟨_ | w | _, rest⟩ <;> rfl

/-- The count of commands in an idle engine. -/
theorem commandCount_idle {s : State} (h : s.pend = .none) :
    commandCount s = waiting s.hostIn + s.hostOut.length := by
  simp [commandCount, h]

/-- The count of commands in a busy engine. -/
theorem commandCount_busy {s : State} (h : s.pend ≠ .none) :
    commandCount s = waiting s.hostIn + 1 + s.hostOut.length := by
  simp [commandCount, busy_of_pend s h]

/-- The count of commands where nothing is answered or accepted. -/
theorem commandCount_congr {s t : State} (hin : waiting t.hostIn = waiting s.hostIn) (hp : t.pend = s.pend)
    (hout : t.hostOut = s.hostOut) : commandCount t = commandCount s := by
  rw [commandCount, commandCount, State.busy, State.busy, hin, hp, hout]

/-- A command taken from the port by an idle engine is counted in progress or answered. -/
theorem commandCount_taken {s t : State} {w : Word} {rest : List HostInput} (hp : s.pend = .none)
    (hport : s.hostIn = .command w :: rest) (hin : t.hostIn = rest)
    (hans : (t.pend ≠ .none ∧ Unanswered s t) ∨ (t.pend = .none ∧ AnsweredOnce s t)) :
    commandCount t = commandCount s := by
  rw [commandCount_idle hp, hport, waiting]
  obtain ⟨hbusy, hout, -⟩ | ⟨hidle, hout⟩ := hans
  · rw [commandCount_busy hbusy, hin, hout]
  · rw [commandCount_idle hidle, hin, hout, List.length_append, List.length_singleton]
    omega

/-- A command the sequencer ends is counted with the answers. -/
theorem commandCount_ended {s t : State} (hin : waiting t.hostIn = waiting s.hostIn) (hp : s.pend ≠ .none)
    (hp' : t.pend = .none) (hout : AnsweredOnce s t) : commandCount t = commandCount s := by
  rw [commandCount_busy hp, commandCount_idle hp', hin, hout, List.length_append, List.length_singleton]
  omega

/-- Settles O37: an acceptance moves a command from the port into progress or to the answers, the sequencer's
last step from progress to the answers. -/
theorem everyCommandAnsweredOnce : Obligations.EveryCommandAnsweredOnce := by
  intro s t hnr hstep
  cases step_stepEvent hstep with
  | reset hr => exact absurd hr hnr
  | sequence _ u hseq =>
    have hin := waiting_afterBusyStep s.hostIn
    obtain ⟨hp, hno⟩ | ⟨hp, hp', hone⟩ := hseq.answers
    · exact ⟨.inl hno, commandCount_congr hin hp hno.1⟩
    · exact ⟨.inr hone, commandCount_ended hin hp hp' hone⟩
  | accept i ha t hev =>
    obtain ⟨hp, w, rest, hport, -⟩ := ha
    have hin : t.hostIn = rest := by rw [hev.hostIn, dropInput_hostIn, hport, List.tail_cons]
    have hans := hev.answers hp
    exact ⟨hans.imp And.right And.right, commandCount_taken hp hport hin hans⟩
  | illegal w rest hp hport =>
    exact ⟨.inr rfl, commandCount_taken hp hport (congrArg List.tail hport) (.inr ⟨hp, rfl⟩)⟩

/-! ### The registers (R20, R21, R109) -/

/-- Settles O39, by the outcomes of a step. -/
theorem registersHaveFourWriters : Obligations.RegistersHaveFourWriters := by
  intro s t hstep
  cases step_stepEvent hstep with
  | reset hr => exact .inr (.inl ⟨hr, rfl⟩)
  | sequence _ u hseq =>
    cases hseq with
    | idle => exact .inl rfl
    | warms hp | warmsLast hp => exact .inr (.inr (.inr (.inr (.inl ⟨hp, rfl⟩))))
    | packs hp | packsLast hp => exact .inr (.inr (.inr (.inr (.inr ⟨hp, rfl⟩))))
  | accept i ha t hev =>
    cases hev with
    | constructs ks ivs hok => exact .inr (.inr (.inl ⟨ks, ivs, ha, hok, rfl⟩))
    | initStarts hready hlen => exact .inr (.inr (.inr (.inl ⟨ha, hready, hlen, rfl⟩)))
    | nop | keyPush | ivPush | constructFails | initTooEarly | initFails | byteStarts | byteRefused =>
      exact .inl rfl
  | illegal => exact .inl rfl

/-! ### The key and its sizes (R22, R23, R24) -/

/-- Settles O40, by the outcomes of a step. -/
theorem onlyConstructWritesKey : Obligations.OnlyConstructWritesKey := by
  intro s t hstep
  cases step_stepEvent hstep with
  | reset hr => exact .inr (.inl ⟨hr, zeroBlock_getElem, rfl, rfl⟩)
  | sequence _ u hseq =>
    cases hseq with
    | idle | warms | warmsLast | packs | packsLast => exact .inl ⟨rfl, rfl, rfl⟩
  | accept i ha t hev =>
    cases hev with
    | constructs ks ivs hok =>
      exact .inr (.inr ⟨ks, ivs, ha, hok, rfl, rfl, (BitVec.ofNat_toNat 8 ivs).symm⟩)
    | nop | keyPush | ivPush | constructFails | initTooEarly | initFails | initStarts | byteStarts
      | byteRefused => exact .inl ⟨rfl, rfl, rfl⟩
  | illegal => exact .inl ⟨rfl, rfl, rfl⟩

/-! ### PHASE (R26) -/

/-- With a reset next, a step is the reset. -/
theorem step_of_resets {s t : State} (hr : Resets s) (h : step s = .next t) :
    t = applyReset (dropInput s) := by
  obtain ⟨rest, hport⟩ := hr
  have hstep : step s = .next (applyReset (dropInput s)) := by simp only [step, cycle, hport]
  exact (Host.Outcome.next.inj (hstep.symm.trans h)).symm

/-- With a command to accept, a step is its acceptance. -/
theorem step_of_accepts {s t : State} {i : Instr} (ha : Accepts s i) (h : step s = .next t) :
    AcceptEvent (dropInput s) i t := by
  obtain ⟨hp, w, rest, hport, hd⟩ := ha
  have hstep : step s = .next (acceptEffect i (dropInput s)) := by
    simp only [step, cycle, hport, busy_of_idle s hp, acceptWord, hd]
    exact exec_idle i (dropInput s) hp
  rw [← Host.Outcome.next.inj (hstep.symm.trans h)]
  exact acceptEffect_acceptEvent i _

/-- In a busy engine without a reset, a step is the sequencer's, whatever is at the port. -/
theorem step_of_busy {s t : State} (hp : s.pend ≠ .none) (hnr : ¬ Resets s) (h : step s = .next t) :
    ∃ u, SequencerEvent s u ∧ t = { u with hostIn := afterBusyStep s.hostIn } := by
  cases step_stepEvent h with
  | reset hr => exact absurd hr hnr
  | sequence _ u hseq => exact ⟨u, hseq, rfl⟩
  | accept i ha => exact absurd ha.1 hp
  | illegal w rest hp' => exact absurd hp' hp

/-- R26's rows of CONSTRUCT. -/
theorem AcceptEvent.construct_phase {s t : State} {ks ivs : BitVec 11}
    (hev : AcceptEvent s (.construct ks ivs) t) :
    (ConstructSucceeds s ks ivs → t.phase = .constructed ∧ rspResult t.lastRsp = 0) ∧
    (¬ ConstructSucceeds s ks ivs →
      t.phase = s.phase ∧ (rspResult t.lastRsp = 3 ∨ rspResult t.lastRsp = 1)) := by
  cases hev with
  | constructs _ _ hok => exact ⟨fun _ => ⟨rfl, rspResult_responseWord ..⟩, fun hno => absurd hok hno⟩
  | constructFails _ _ r hfail hr =>
    refine ⟨fun hok => absurd hok hfail, fun _ => ⟨rfl, ?_⟩⟩
    rw [respond_lastRsp, rspResult_responseWord]
    obtain rfl | rfl := hr
    · exact .inl rfl
    · exact .inr rfl
  | byteStarts _ _ hbyte | byteRefused _ _ hbyte => cases hbyte

/-- R26's rows of INITIALIZE. -/
theorem AcceptEvent.init_phase {s t : State} (hev : AcceptEvent s .init t) :
    (s.phase = .empty → t.phase = .empty ∧ rspResult t.lastRsp = 5) ∧
    (s.phase ≠ .empty → s.ivCount.toNat = s.ivSize.toNat / 8 →
      t.phase = .initializing ∧ t.hostOut = s.hostOut) ∧
    (s.phase ≠ .empty → s.ivCount.toNat ≠ s.ivSize.toNat / 8 →
      t.phase = .failed ∧ rspResult t.lastRsp = 2) := by
  cases hev with
  | initTooEarly hempty =>
    exact ⟨fun _ => ⟨hempty, rspResult_responseWord ..⟩, fun hno => absurd hempty hno,
      fun hno => absurd hempty hno⟩
  | initFails hready hlen =>
    exact ⟨fun he => absurd he hready, fun _ hl => absurd hl hlen,
      fun _ _ => ⟨rfl, rspResult_responseWord ..⟩⟩
  | initStarts hready hlen =>
    exact ⟨fun he => absurd he hready, fun _ _ => ⟨rfl, rfl⟩, fun _ hl => absurd hlen hl⟩
  | byteStarts _ _ hbyte | byteRefused _ _ hbyte => cases hbyte

/-- R26's rows of the byte commands' acceptance. -/
theorem AcceptEvent.byte_phase {s t : State} {i : Instr} {d : Byte} (hev : AcceptEvent s i t)
    (hbyte : byteOperand i = some d) :
    t.phase = s.phase ∧ (s.phase = .keystreaming → t.pend = .byte) ∧
    (s.phase ≠ .keystreaming → rspResult t.lastRsp = 4) := by
  cases hev with
  | byteStarts _ _ _ hph => exact ⟨rfl, fun _ => rfl, fun hno => absurd hph hno⟩
  | byteRefused _ _ _ hph => exact ⟨rfl, fun h => absurd h hph, fun _ => rspResult_responseWord ..⟩
  | nop | keyPush | ivPush | constructFails | constructs | initTooEarly | initFails | initStarts =>
    cases hbyte

/-- R26's row of a byte command's steps: PHASE stays, and the last is answered OK. -/
theorem SequencerEvent.byte_phase {s t : State} (hev : SequencerEvent s t) (hp : s.pend = .byte) :
    t.phase = s.phase ∧ (s.bitCount = 7 → rspResult t.lastRsp = 0) := by
  cases hev with
  | packs _ hmore => exact ⟨rfl, fun h => absurd h hmore⟩
  | packsLast => exact ⟨rfl, fun _ => rspResult_responseWord ..⟩
  | idle hp' | warms hp' | warmsLast hp' => simp [hp] at hp'

/-- R26's row of the 256th warm-up step. -/
theorem SequencerEvent.warmup_phase {s t : State} (hev : SequencerEvent s t) (hp : s.pend = .warmup)
    (hlast : s.warmCount = 255) : t.phase = .keystreaming ∧ t.lastRsp = 0x00043000#32 := by
  cases hev with
  | warmsLast => exact ⟨rfl, by rw [warmupComplete_lastRsp]; decide⟩
  | warms _ hmore => exact absurd hlast hmore
  | idle hp' | packs hp' | packsLast hp' => simp [hp] at hp'

/-- R26 lists every change of PHASE. -/
theorem StepEvent.phase_eq_or {s t : State} (hev : StepEvent s t) :
    t.phase = s.phase ∨ Resets s ∨
    (∃ ks ivs, Accepts s (.construct ks ivs) ∧ ConstructSucceeds s ks ivs) ∨
    (Accepts s .init ∧ s.phase ≠ .empty) ∨ (s.pend = .warmup ∧ s.warmCount = 255) := by
  cases hev with
  | reset hr => exact .inr (.inl hr)
  | sequence _ u hseq =>
    cases hseq with
    | warmsLast hp hlast => exact .inr (.inr (.inr (.inr ⟨hp, hlast⟩)))
    | idle | warms | packs | packsLast => exact .inl rfl
  | accept i ha t hev =>
    cases hev with
    | constructs ks ivs hok => exact .inr (.inr (.inl ⟨ks, ivs, ha, hok⟩))
    | initFails hready | initStarts hready => exact .inr (.inr (.inr (.inl ⟨ha, hready⟩)))
    | nop | keyPush | ivPush | constructFails | initTooEarly | byteStarts | byteRefused => exact .inl rfl
  | illegal => exact .inl rfl

/-- Settles O38, a lemma per row of R26's table. -/
theorem phaseChangesByTable : Obligations.PhaseChangesByTable := by
  intro s t hstep
  refine ⟨fun hr => ?reset, fun ks ivs ha => ?construct, fun ha => ?init, fun d hd => ?byteAccept,
    fun hp hnr => ?byte, fun hp hnr hlast => ?warmup, (step_stepEvent hstep).phase_eq_or⟩
  case reset => rw [step_of_resets hr hstep]; rfl
  case construct => exact (step_of_accepts ha hstep).construct_phase
  case init => exact (step_of_accepts ha hstep).init_phase
  case byteAccept =>
    obtain ha | ha | ha := hd
    all_goals exact (step_of_accepts ha hstep).byte_phase rfl
  case byte =>
    obtain ⟨u, hseq, rfl⟩ := step_of_busy (by simp [hp]) hnr hstep
    exact hseq.byte_phase hp
  case warmup =>
    obtain ⟨u, hseq, rfl⟩ := step_of_busy (by simp [hp]) hnr hstep
    exact hseq.warmup_phase hp hlast

end Sys2Proof.Machine
end

section
/-! PROOF. The response word's fields and the codes they are made of (R76, R25, R30, R180), and the values after
reset (R35). -/

namespace Sys2Proof.Machine

/-- A field of a response word, from its bits. -/
theorem responseWord_field {opc : BitVec 4} {p : Phase} {r : Result} {d : Byte} {start len : Nat}
    {x : BitVec len}
    (h : ∀ i, i < len → (responseWord opc p r d).getLsbD (start + i) = x.getLsbD i) :
    (responseWord opc p r d).extractLsb' start len = x := by
  apply BitVec.eq_of_getLsbD_eq
  intro i hi
  rw [BitVec.getLsbD_extractLsb', h i hi]
  simp [hi]

/-- PHASE read back from a response word (R76). -/
theorem responseWord_phase (opc : BitVec 4) (p : Phase) (r : Result) (d : Byte) :
    (responseWord opc p r d).extractLsb' 12 3 = p.code :=
  responseWord_field fun i hi => by
    rw [responseWord_getLsbD, if_neg (by omega), if_neg (by omega), if_pos (by omega),
      Nat.add_sub_cancel_left]

/-- Bit 15 of a response word is 0 (R76). -/
theorem responseWord_bit15 (opc : BitVec 4) (p : Phase) (r : Result) (d : Byte) :
    (responseWord opc p r d).extractLsb' 15 1 = 0#1 :=
  responseWord_field fun i hi => by
    rw [responseWord_getLsbD, if_neg (by omega), if_neg (by omega), if_neg (by omega), if_pos (by omega),
      BitVec.getLsbD_zero]

/-- OPC read back from a response word (R76). -/
theorem responseWord_opc (opc : BitVec 4) (p : Phase) (r : Result) (d : Byte) :
    (responseWord opc p r d).extractLsb' 16 4 = opc :=
  responseWord_field fun i hi => by
    rw [responseWord_getLsbD, if_neg (by omega), if_neg (by omega), if_neg (by omega), if_neg (by omega),
      if_pos (by omega), Nat.add_sub_cancel_left]

/-- Bits 31 to 20 of a response word are 0 (R76). -/
theorem responseWord_high (opc : BitVec 4) (p : Phase) (r : Result) (d : Byte) :
    (responseWord opc p r d).extractLsb' 20 12 = 0#12 :=
  responseWord_field fun i hi => by
    rw [responseWord_getLsbD, if_neg (by omega), if_neg (by omega), if_neg (by omega), if_neg (by omega),
      if_neg (by omega), BitVec.getLsbD_zero]

/-- A code names a result exactly when it is that result's code (R180): each of the sixteen codes tried. -/
theorem ofCode_eq_some_iff (c : BitVec 4) (r : Result) : Result.ofCode c = some r ↔ r.code = c := by
  cases r <;> revert c <;> decide

/-- Settles O6, field by field. -/
theorem responseWordFields : Obligations.ResponseWordFields := by
  refine ⟨fun opc p r d => ⟨rspDout_responseWord opc p r d, rspResult_responseWord opc p r d,
    responseWord_phase opc p r d, responseWord_bit15 opc p r d, responseWord_opc opc p r d,
    responseWord_high opc p r d⟩, ?phases, ?results, ofCode_eq_some_iff, ?pends⟩
  case phases => exact ⟨rfl, rfl, rfl, rfl, rfl⟩
  case results => exact ⟨rfl, rfl, rfl, rfl, rfl, rfl, rfl⟩
  case pends => exact ⟨rfl, rfl, rfl⟩

/-- Settles O29: the fields of the fixed reset state, its three blocks being cleared buffers. -/
theorem resetValues : Obligations.ResetValues :=
  ⟨rfl, rfl, zeroBlock_getElem, rfl, rfl, rfl, zeroBlock_getElem, rfl, zeroBlock_getElem, rfl, rfl, rfl, rfl,
    rfl, rfl, rfl, rfl⟩

end Sys2Proof.Machine
end

section
/-! PROOF. A stream of commands is their sequential composition (R58, R210): one engine step of the stream at a
time, the command in progress counted by the engine steps it still needs. -/

namespace Sys2Proof.Machine

/-! ### What the command level leaves of the port and of PEND -/

/-- A legal command's one transition ends in an idle engine. -/
theorem atomicCommand_pend (i : Instr) (s : State) (h : s.pend = .none) :
    (atomicCommand i s).pend = .none := by
  have hbyte (opc : BitVec 4) (d : Byte) : (byteAtomic opc d s).pend = .none := by
    rw [byteAtomic]
    split_ifs <;> exact h
  cases i with
  | nop | keyPush | ivPush => exact h
  | construct ks ivs => exact (constructEffect_pend ks ivs s).trans h
  | init =>
    show (initAtomic s).pend = .none
    rw [initAtomic]
    split_ifs with hfail
    · obtain ⟨-, e⟩ | ⟨-, -, e⟩ | ⟨hph, hiv, -⟩ := initEffect_eq s
      · rw [e]; exact h
      · rw [e]; exact h
      · simp [hph, hiv] at hfail
    · exact h
  | ksByte => exact hbyte 0x5 0
  | encryptByte p => exact hbyte 0x6 p
  | decryptByte c => exact hbyte 0x7 c

/-- A word's one transition, legal or not, ends in an idle engine. -/
theorem commandLevel_pend (w : Word) (s : State) (h : s.pend = .none) :
    (commandLevel w s).pend = .none := by
  unfold commandLevel
  cases decode w with
  | ok i => exact atomicCommand_pend i s h
  | error e => exact h

/-- A legal command's one transition does not read the port. -/
theorem atomicCommand_withPort (i : Instr) (s : State) (port : List HostInput) :
    atomicCommand i { s with hostIn := port } = { atomicCommand i s with hostIn := port } := by
  have hbyte (opc : BitVec 4) (d : Byte) :
      byteAtomic opc d { s with hostIn := port } = { byteAtomic opc d s with hostIn := port } := by
    rw [byteAtomic, byteAtomic]
    split_ifs <;> rfl
  cases i with
  | nop | keyPush | ivPush => rfl
  | construct ks ivs =>
    show constructEffect ks ivs { s with hostIn := port } = { constructEffect ks ivs s with hostIn := port }
    rw [constructEffect, constructEffect]
    split_ifs <;> rfl
  | init =>
    have hiv : ivLengthOk { s with hostIn := port } = ivLengthOk s := rfl
    show initAtomic { s with hostIn := port } = { initAtomic s with hostIn := port }
    rw [initAtomic, initAtomic, initEffect, initEffect, hiv]
    split_ifs <;> rfl
  | ksByte => exact hbyte 0x5 0
  | encryptByte p => exact hbyte 0x6 p
  | decryptByte c => exact hbyte 0x7 c

/-- A word's one transition does not read the port. -/
theorem commandLevel_withPort (w : Word) (s : State) (port : List HostInput) :
    commandLevel w { s with hostIn := port } = { commandLevel w s with hostIn := port } := by
  unfold commandLevel
  cases decode w with
  | ok i => exact atomicCommand_withPort i s port
  | error e => rfl

/-! ### One engine step of a stream -/

/-- The sequencer does not read the port, however many engine steps it takes. -/
theorem engineSteps_withPort (k : Nat) (s : State) (port : List HostInput) :
    engineSteps k { s with hostIn := port } = { engineSteps k s with hostIn := port } := by
  induction k generalizing s with
  | zero => rfl
  | succ k ih => rw [engineSteps, engineStep_withPort, ih]; rfl

/-- A sequence that ends within `k` engine steps ends in the same state when one of them is taken first. -/
theorem engineSteps_pred_engineStep {k : Nat} {s : State} (h : (engineSteps k s).pend = .none) :
    engineSteps (k - 1) (engineStep s) = engineSteps k s := by
  cases k with
  | zero => exact engineStep_idle s h
  | succ k => rfl

/-- A quiet engine step is taken off the port while the sequencer steps (R193). -/
theorem step_quiet (s : State) (rest : List HostInput) :
    step { s with hostIn := .quiet :: rest } = .next { engineStep s with hostIn := rest } :=
  congrArg Host.Outcome.next (engineStep_withPort s rest)

/-- A command waits at the port of a busy engine while the sequencer steps (R203). -/
theorem step_command_busy (s : State) (w : Word) (rest : List HostInput) (h : s.pend ≠ .none) :
    step { s with hostIn := .command w :: rest } =
      .next { engineStep s with hostIn := .command w :: rest } := by
  have hstep := step_busy { s with hostIn := .command w :: rest } h (.inr ⟨w, rest, rfl⟩)
  rw [hstep, engineStep_withPort]

/-- An idle engine takes a command off the port, and 256 engine steps of the sequencer then reach what the
command level gives. -/
theorem step_command_idle_reaches (s : State) (w : Word) (rest : List HostInput) (h : s.pend = .none) :
    ∃ t, step { s with hostIn := .command w :: rest } = .next { t with hostIn := rest } ∧
      (engineSteps 256 t).pend = .none ∧
      { engineSteps 256 t with hostIn := [] } = commandLevel w { s with hostIn := [] } := by
  obtain ⟨t, haccept, hport, hreach⟩ := acceptWord_reaches_commandLevel w { s with hostIn := rest } h
  refine ⟨t, ?step, ?idle, ?reach⟩
  case step =>
    obtain rfl : t.hostIn = rest := hport
    exact (step_command_idle s w _ h).trans haccept
  case idle => rw [hreach]; exact commandLevel_pend w _ h
  case reach => rw [hreach, ← commandLevel_withPort]

/-! ### The stream -/

/-- An engine whose command in progress ends within `k` engine steps, with a stream at the port: the command
ends, and the stream's commands follow it in order, in any number of engine steps that has room for all. -/
theorem run_stream (n k : Nat) (s : State) (ins : List HostInput) (hreset : .reset ∉ ins)
    (hidle : (engineSteps k s).pend = .none) (hroom : 257 * ins.length + k ≤ n) :
    core.run n { s with hostIn := ins } =
      .next (ins.foldl applyInput { engineSteps k s with hostIn := [] }) := by
  induction n generalizing k s ins with
  | zero =>
    obtain rfl : ins = [] := List.eq_nil_of_length_eq_zero (by omega)
    obtain rfl : k = 0 := by omega
    rfl
  | succ n ih =>
    rcases ins with - | ⟨_ | w | _, rest⟩
    case nil =>
      have hk : k ≤ n + 1 := by simpa using hroom
      rw [run_eq_engineSteps _ _ rfl, engineSteps_withPort, engineSteps_of_idle_at hk hidle]
      rfl
    case cons.quiet =>
      rw [List.length_cons] at hroom
      have hnext := engineSteps_pred_engineStep hidle
      rw [run_succ n _ _ (step_quiet s rest),
        ih (k - 1) _ rest (List.not_mem_of_not_mem_cons hreset) (by rwa [hnext]) (by omega), hnext]
      rfl
    case cons.command =>
      by_cases hp : s.pend = .none
      · rw [List.length_cons] at hroom
        obtain ⟨t, hstep, hidle', hreach⟩ := step_command_idle_reaches s w rest hp
        rw [run_succ n _ _ hstep,
          ih 256 t rest (List.not_mem_of_not_mem_cons hreset) hidle' (by omega), hreach,
          engineSteps_idle k s hp]
        rfl
      · have hk : k ≠ 0 := by rintro rfl; exact hp hidle
        have hnext := engineSteps_pred_engineStep hidle
        rw [run_succ n _ _ (step_command_busy s w rest hp),
          ih (k - 1) _ _ hreset (by rwa [hnext]) (by omega), hnext]
    case cons.reset => simp at hreset

/-- Settles O28: an idle engine's command in progress ends within 0 engine steps. -/
theorem streamIsSequentialComposition : Obligations.StreamIsSequentialComposition :=
  fun s ins h hreset => run_stream (257 * ins.length) 0 s ins hreset h le_rfl

end Sys2Proof.Machine
end

section
/-! PROOF. The bits of a keystream byte (R52, R152). -/

namespace Sys2Proof.Machine

/-- Settles O13: a byte's bits are the packed bits in order, and those are the steps' outputs in order. -/
theorem keystreamByteBits : Obligations.KeystreamByteBits := by
  intro r k hk
  rw [ksByteOf, byteOfBits_getLsbD _ k hk]
  exact keystreamBits_getD 8 k hk r

end Sys2Proof.Machine
end

section
/-! PROOF. Around the engine: a word on a byte-wide bus (R54, R55) and several engines (R64, R191). -/

namespace Sys2Proof.Machine

/-! ### A word on a byte-wide bus -/

/-- A word is its four bytes, the most significant first. -/
theorem word_eq_bytes (w : Word) :
    w.extractLsb' 24 8 ++ w.extractLsb' 16 8 ++ w.extractLsb' 8 8 ++ w.extractLsb' 0 8 = w := by
  rw [BitVec.extractLsb'_append_extractLsb'_eq_extractLsb' (show 24 = 16 + 8 from rfl),
    BitVec.extractLsb'_append_extractLsb'_eq_extractLsb' (show 16 = 8 + 8 from rfl),
    BitVec.extractLsb'_append_extractLsb'_eq_extractLsb' (show 8 = 0 + 8 from rfl)]
  exact BitVec.extractLsb'_eq_self

/-- The word read from the bytes a word is sent as, in either order (R54). -/
theorem wordOfBusBytes_busBytes (o : ByteOrder) (w : Word) : wordOfBusBytes o (busBytes o w) = some w := by
  cases o with
  | little => exact congrArg some (word_eq_bytes w)
  | big => exact congrArg some (word_eq_bytes w)

/-- Four bytes are a word in either order (R54). -/
theorem wordOfBusBytes_of_length_eq (o : ByteOrder) (bs : List Byte) (h : bs.length = 4) :
    ∃ w, wordOfBusBytes o bs = some w := by
  obtain ⟨a, b, c, d, rfl⟩ := List.length_eq_four.1 h
  cases o with
  | little => exact ⟨_, rfl⟩
  | big => exact ⟨_, rfl⟩

/-- Any other number of bytes is no word (R55). -/
theorem wordOfBusBytes_of_length_ne (o : ByteOrder) (bs : List Byte) (h : bs.length ≠ 4) :
    wordOfBusBytes o bs = none := by
  unfold wordOfBusBytes
  split
  · simp at h
  · simp at h
  · rfl

/-- Bytes that are a word present it to the engine, behind what waits at the port. -/
theorem presentBytes_of_word {bs : List Byte} {w : Word} (s : State)
    (h : wordOfBusBytes Config.busByteOrder bs = some w) :
    presentBytes bs s = .next { s with hostIn := s.hostIn ++ [.command w] } := by
  simp only [presentBytes, h]

/-- Bytes that are no word are refused (R55). -/
theorem presentBytes_of_none {bs : List Byte} (s : State) (h : wordOfBusBytes Config.busByteOrder bs = none) :
    presentBytes bs s = .refused .partialWordAccess := by
  simp only [presentBytes, h]

/-- Settles O51: the bus facts hold in both orders, so they hold in the platform's, which has no value. -/
theorem busCarriesWholeWords : Obligations.BusCarriesWholeWords := by
  refine ⟨fun a b c d => ⟨rfl, rfl⟩, wordOfBusBytes_busBytes, fun o bs => ⟨?onlyFour, ?four⟩,
    fun s w => presentBytes_of_word s (wordOfBusBytes_busBytes _ w), ?presents, ?refuses⟩
  case onlyFour =>
    rintro ⟨w, hw⟩
    by_contra h
    simp [wordOfBusBytes_of_length_ne o bs h] at hw
  case four => exact wordOfBusBytes_of_length_eq o bs
  case presents =>
    intro s bs h
    obtain ⟨w, hw⟩ := wordOfBusBytes_of_length_eq Config.busByteOrder bs h
    exact ⟨w, hw, presentBytes_of_word s hw⟩
  case refuses => exact fun s bs h => presentBytes_of_none s (wordOfBusBytes_of_length_ne _ bs h)

/-! ### Several engines -/

/-- A step of engine `i` is the next state at `i` and nowhere else (R64). -/
theorem stepEngine_eq_modify (i : Nat) (es : List State) :
    stepEngine i es = .next (es.modify i nextState) := by
  rw [stepEngine, List.modify_eq_set_getElem?]
  cases es[i]? with
  | none => rfl
  | some s => simp only [step_eq_nextState]; rfl

/-- The platform after a step. -/
theorem eq_modify_of_stepEngine {i : Nat} {es fs : List State} (h : stepEngine i es = .next fs) :
    fs = es.modify i nextState := by
  rw [stepEngine_eq_modify] at h
  cases h; rfl

/-- Settles O52: a step changes one place of the list, and changes at two places commute. -/
theorem enginesAreIndependent : Obligations.EnginesAreIndependent := by
  refine ⟨?others, ?commute⟩
  case others =>
    intro i j es fs h hne
    rw [eq_modify_of_stepEngine h, List.getElem?_modify_ne nextState es hne.symm]
  case commute =>
    intro i j es fs gs hne hi hj
    rw [eq_modify_of_stepEngine hj, eq_modify_of_stepEngine hi, List.modify_modify_ne _ _ es hne]
    exact ⟨_, stepEngine_eq_modify j es, stepEngine_eq_modify i _⟩

end Sys2Proof.Machine
end

section
/-! PROOF. Command words (R70 to R75): the decoder and the encoder are each other's inverse, and so the decoder
follows the pattern table; and which words are illegal. -/

namespace Sys2Proof

open Machine

/-! ### Decoding and encoding -/

/-- A word with RSVD = 0 is assembled from its other four fields (R70). -/
theorem assembleWord_fields {w : Word} (h : rsvdField w = 0) :
    assembleWord (opcField w) (data8 w) (ksz8 w) (ivsz8 w) = w :=
  word_ext _ _ (by simp) (by simp [h]) (by simp) (by simp) (by simp)

/-- The decoder reads a well-formed command back from its word. -/
theorem decode_encode {i : Instr} (h : WellFormed i) : decode (encode i) = .ok i := by
  cases i with
  | nop | init | ksByte => rfl
  | keyPush | ivPush | encryptByte | decryptByte => simp [encode, opcode, decode, decodeByte]
  | construct ks ivs =>
    obtain ⟨hks, hivs⟩ := h
    simp [encode, opcode, decode, decodeConstruct, sizeBits_sizeField _ hks, sizeBits_sizeField _ hivs]

/-- Settles O1. -/
theorem decodeOfEncode : Obligations.DecodeOfEncode := fun _ => decode_encode

/-- A word read as a command with no operand is that command's word. -/
theorem wellFormed_encode_of_decodePlain {w : Word} {i j : Instr}
    (hword : assembleWord (opcode i) (data8 w) (ksz8 w) (ivsz8 w) = w) (hwf : WellFormed i)
    (hplain : encode i = assembleWord (opcode i) 0 0 0) (h : decodePlain w i = .ok j) :
    WellFormed j ∧ encode j = w := by
  obtain ⟨hd, hk, hv, rfl⟩ := (decodePlain_ok_iff w i j).1 h
  rw [hd, hk, hv] at hword
  exact ⟨hwf, hplain.trans hword⟩

/-- A word read as a command with a byte operand is that command's word. -/
theorem wellFormed_encode_of_decodeByte {w : Word} {o : BitVec 4} {i : Byte → Instr} {j : Instr}
    (hword : assembleWord o (data8 w) (ksz8 w) (ivsz8 w) = w) (hwf : ∀ d, WellFormed (i d))
    (hbyte : ∀ d, encode (i d) = assembleWord o d 0 0) (h : decodeByte w i = .ok j) :
    WellFormed j ∧ encode j = w := by
  obtain ⟨hk, hv, rfl⟩ := (decodeByte_ok_iff w i j).1 h
  rw [hk, hv] at hword
  exact ⟨hwf _, (hbyte _).trans hword⟩

/-- A size field is a multiple of 8 bits (R73). -/
theorem sizeEncodable_sizeBits (z : BitVec 8) : SizeEncodable (sizeBits z) := by
  rw [SizeEncodable, sizeBits_toNat, Nat.mul_mod_right]

/-- CONSTRUCT's word from its two size fields. -/
theorem encode_construct_sizeBits (k v : BitVec 8) :
    encode (.construct (sizeBits k) (sizeBits v)) = assembleWord 3 0 k v := by
  simp [encode, opcode]

/-- A word read as CONSTRUCT is CONSTRUCT's word. -/
theorem wellFormed_encode_of_decodeConstruct {w : Word} {j : Instr}
    (hword : assembleWord 3 (data8 w) (ksz8 w) (ivsz8 w) = w) (h : decodeConstruct w = .ok j) :
    WellFormed j ∧ encode j = w := by
  obtain ⟨hd, rfl⟩ := (decodeConstruct_ok_iff w j).1 h
  rw [hd] at hword
  exact ⟨⟨sizeEncodable_sizeBits _, sizeEncodable_sizeBits _⟩,
    (encode_construct_sizeBits _ _).trans hword⟩

/-- A legal word is the word of the command read from it. -/
theorem wellFormed_encode_of_decode {w : Word} {i : Instr} (h : decode w = .ok i) :
    WellFormed i ∧ encode i = w := by
  unfold decode at h
  split at h
  · cases h
  · next hrsvd =>
    have hword (o : BitVec 4) (hopc : (opcField w).toNat = o.toNat) :
        assembleWord o (data8 w) (ksz8 w) (ivsz8 w) = w := by
      rw [← BitVec.eq_of_toNat_eq hopc]
      exact assembleWord_fields (not_not.1 hrsvd)
    split at h
    · next hopc => exact wellFormed_encode_of_decodePlain (i := .nop) (hword 0 hopc) trivial rfl h
    · next hopc => exact wellFormed_encode_of_decodeByte (hword 1 hopc) (fun _ => trivial) (fun _ => rfl) h
    · next hopc => exact wellFormed_encode_of_decodeByte (hword 2 hopc) (fun _ => trivial) (fun _ => rfl) h
    · next hopc => exact wellFormed_encode_of_decodeConstruct (hword 3 hopc) h
    · next hopc => exact wellFormed_encode_of_decodePlain (i := .init) (hword 4 hopc) trivial rfl h
    · next hopc => exact wellFormed_encode_of_decodePlain (i := .ksByte) (hword 5 hopc) trivial rfl h
    · next hopc => exact wellFormed_encode_of_decodeByte (hword 6 hopc) (fun _ => trivial) (fun _ => rfl) h
    · next hopc => exact wellFormed_encode_of_decodeByte (hword 7 hopc) (fun _ => trivial) (fun _ => rfl) h
    · cases h

/-- Settles O2. -/
theorem encodeOfDecode : Obligations.EncodeOfDecode := fun _ _ => wellFormed_encode_of_decode

/-- Settles O4: each word is the word of its command. -/
theorem exampleWordsDecode : Obligations.ExampleWordsDecode :=
  ⟨decode_encode (i := .nop) trivial, decode_encode (i := .keyPush 0xAB) trivial,
    decode_encode (i := .ivPush 0xFF) trivial, decode_encode (i := .construct 128 96) (by decide),
    decode_encode (i := .construct 128 128) (by decide), decode_encode (i := .init) trivial,
    decode_encode (i := .ksByte) trivial, decode_encode (i := .encryptByte 0x50) trivial,
    decode_encode (i := .decryptByte 0x95) trivial⟩

/-! ### The pattern table (R74) -/

/-- A field that a row's mask keeps whole is the field of the row's value. -/
theorem field_eq_of_mask {n : Nat} {f : Word → BitVec n} {w m v : Word}
    (hand : ∀ w m, f (w &&& m) = f w &&& f m) (hm : f m = BitVec.allOnes n) (h : w &&& m = v) :
    f w = f v := by
  rw [← h, hand, hm, BitVec.and_allOnes]

/-- A word that matches the row of a command with a byte operand has that operand in DATA8. -/
theorem eq_of_byteMask {w : Word} {o : BitVec 4} (h : w &&& 0xFFFF00FF#32 = assembleWord o 0 0 0) :
    assembleWord o (data8 w) 0 0 = w := by
  have hopc : opcField w = o := by rw [field_eq_of_mask opcField_and rfl h, opcField_assembleWord]
  have hrsvd : rsvdField w = 0 := by rw [field_eq_of_mask rsvdField_and rfl h, rsvdField_assembleWord]
  have hk : ksz8 w = 0 := by rw [field_eq_of_mask ksz8_and rfl h, ksz8_assembleWord]
  have hv : ivsz8 w = 0 := by rw [field_eq_of_mask ivsz8_and rfl h, ivsz8_assembleWord]
  have hword := assembleWord_fields hrsvd
  rwa [hopc, hk, hv] at hword

/-- A word that matches CONSTRUCT's row has the two sizes in KSZ8 and IVSZ8. -/
theorem eq_of_sizeMask {w : Word} {o : BitVec 4} (h : w &&& 0x0000FFFF#32 = assembleWord o 0 0 0) :
    assembleWord o 0 (ksz8 w) (ivsz8 w) = w := by
  have hopc : opcField w = o := by rw [field_eq_of_mask opcField_and rfl h, opcField_assembleWord]
  have hrsvd : rsvdField w = 0 := by rw [field_eq_of_mask rsvdField_and rfl h, rsvdField_assembleWord]
  have hd : data8 w = 0 := by rw [field_eq_of_mask data8_and rfl h, data8_assembleWord]
  have hword := assembleWord_fields hrsvd
  rwa [hopc, hd] at hword

/-- A word that is a well-formed command's word decodes to that command. -/
theorem decode_of_encode_eq {w : Word} {i : Instr} (hwf : WellFormed i) (h : encode i = w) :
    decode w = .ok i :=
  h ▸ decode_encode hwf

/-- No word matches two rows: every mask keeps OPC whole, and no two rows have the same opcode. -/
theorem eq_of_matches {p q : Pattern} {w : Word} (hp : p ∈ patterns) (hq : q ∈ patterns)
    (hpw : p.Matches w) (hqw : q.Matches w) : p = q := by
  have hmask : ∀ p ∈ patterns, opcField p.mask = BitVec.allOnes 4 := by decide
  have hopc : ∀ p ∈ patterns, p.Matches w → opcField w = opcField p.value := fun p hp h =>
    field_eq_of_mask opcField_and (hmask p hp) h
  have hdistinct : ∀ p ∈ patterns, ∀ q ∈ patterns, opcField p.value = opcField q.value → p = q := by decide
  exact hdistinct p hp q hq ((hopc p hp hpw).symm.trans (hopc q hq hqw))

/-- Every command's word matches a row. -/
theorem encode_matches (i : Instr) : ∃ p ∈ patterns, p.Matches (encode i) := by
  have hrow : Laws.EncodeInRow.Statement i := by
    cases i with
    | nop => exact Laws.EncodeInRow.nop
    | keyPush d => exact Laws.EncodeInRow.keyPush d
    | ivPush d => exact Laws.EncodeInRow.ivPush d
    | construct ks ivs => exact Laws.EncodeInRow.construct ks ivs
    | init => exact Laws.EncodeInRow.init
    | ksByte => exact Laws.EncodeInRow.ksByte
    | encryptByte p => exact Laws.EncodeInRow.encryptByte p
    | decryptByte c => exact Laws.EncodeInRow.decryptByte c
  obtain ⟨p, hp, -, hmatch⟩ := hrow
  exact ⟨p, hp, hmatch⟩

/-- Settles O3: a word that matches a row is the word of the row's command, which decodes to it; and a legal
word is the word of its command, which matches a row. -/
theorem decodeFollowsPatternTable : Obligations.DecodeFollowsPatternTable := by
  intro w
  have hplain {i : Instr} (hwf : WellFormed i) (h : w &&& 0xFFFFFFFF#32 = encode i) : decode w = .ok i :=
    decode_of_encode_eq hwf (h.symm.trans BitVec.and_allOnes)
  have hkey (h : w &&& 0xFFFF00FF#32 = 0x1#32) : decode w = .ok (.keyPush (data8 w)) :=
    decode_of_encode_eq trivial (eq_of_byteMask (o := 1) h)
  have hiv (h : w &&& 0xFFFF00FF#32 = 0x2#32) : decode w = .ok (.ivPush (data8 w)) :=
    decode_of_encode_eq trivial (eq_of_byteMask (o := 2) h)
  have hcons (h : w &&& 0x0000FFFF#32 = 0x3#32) :
      decode w = .ok (.construct (sizeBits (ksz8 w)) (sizeBits (ivsz8 w))) :=
    decode_of_encode_eq ⟨sizeEncodable_sizeBits _, sizeEncodable_sizeBits _⟩
      ((encode_construct_sizeBits _ _).trans (eq_of_sizeMask (o := 3) h))
  have henc (h : w &&& 0xFFFF00FF#32 = 0x6#32) : decode w = .ok (.encryptByte (data8 w)) :=
    decode_of_encode_eq trivial (eq_of_byteMask (o := 6) h)
  have hdec (h : w &&& 0xFFFF00FF#32 = 0x7#32) : decode w = .ok (.decryptByte (data8 w)) :=
    decode_of_encode_eq trivial (eq_of_byteMask (o := 7) h)
  refine ⟨hplain (i := .nop) trivial, hkey, hiv, fun h => ⟨_, _, hcons h, sizeBits_toNat _, sizeBits_toNat _⟩,
    hplain (i := .init) trivial, hplain (i := .ksByte) trivial, henc, hdec, ⟨?row, ?legal⟩,
    fun p hp q hq => eq_of_matches hp hq⟩
  case row =>
    rintro ⟨i, hd⟩
    obtain ⟨-, rfl⟩ := wellFormed_encode_of_decode hd
    exact encode_matches i
  case legal =>
    rintro ⟨p, hp, hmatch⟩
    simp only [patterns, List.mem_cons, List.not_mem_nil, or_false] at hp
    obtain rfl | rfl | rfl | rfl | rfl | rfl | rfl | rfl := hp
    · exact ⟨_, hplain (i := .nop) trivial hmatch⟩
    · exact ⟨_, hkey hmatch⟩
    · exact ⟨_, hiv hmatch⟩
    · exact ⟨_, hcons hmatch⟩
    · exact ⟨_, hplain (i := .init) trivial hmatch⟩
    · exact ⟨_, hplain (i := .ksByte) trivial hmatch⟩
    · exact ⟨_, henc hmatch⟩
    · exact ⟨_, hdec hmatch⟩

/-! ### Illegal words (R75) -/

/-- When the fields of a word keep it from being a command with no operand. -/
theorem decodePlain_error_iff (w : Word) (i : Instr) :
    (∃ e, decodePlain w i = .error e) ↔ data8 w ≠ 0 ∨ ksz8 w ≠ 0 ∨ ivsz8 w ≠ 0 := by
  unfold decodePlain
  split_ifs with hd hz <;> simp_all

/-- When the fields of a word keep it from being a command with a byte operand. -/
theorem decodeByte_error_iff (w : Word) (i : Byte → Instr) :
    (∃ e, decodeByte w i = .error e) ↔ ksz8 w ≠ 0 ∨ ivsz8 w ≠ 0 := by
  unfold decodeByte
  split_ifs with hz <;> simp_all

/-- When the fields of a word keep it from being CONSTRUCT. -/
theorem decodeConstruct_error_iff (w : Word) : (∃ e, decodeConstruct w = .error e) ↔ data8 w ≠ 0 := by
  unfold decodeConstruct
  split_ifs with hd <;> simp_all

/-- Which words are illegal, by their fields. -/
theorem decode_error_iff (w : Word) :
    (∃ e, decode w = .error e) ↔
      8 ≤ (opcField w).toNat ∨ rsvdField w ≠ 0 ∨
      ((opcField w).toNat ∉ [1, 2, 6, 7] ∧ data8 w ≠ 0) ∨
      ((opcField w).toNat ≠ 3 ∧ (ksz8 w ≠ 0 ∨ ivsz8 w ≠ 0)) := by
  unfold decode
  split
  · next hrsvd => exact iff_of_true ⟨_, rfl⟩ (.inr (.inl hrsvd))
  · next hrsvd =>
    split
    case h_9 =>
      have hreserved : 8 ≤ (opcField w).toNat := by
        simp only [imp_false] at *
        omega
      exact iff_of_true ⟨_, rfl⟩ (.inl hreserved)
    all_goals
      next hopc =>
        simp [hopc, not_not.1 hrsvd, decodePlain_error_iff, decodeByte_error_iff, decodeConstruct_error_iff]

/-- Settles O5: the answer to an illegal word is a completion, and OPC, the phase and code 6 stand in it. -/
theorem illegalWordsOnlyAnswered : Obligations.IllegalWordsOnlyAnswered := by
  refine ⟨decode_error_iff, fun s w e hidle hd => ?_⟩
  have haccept : acceptWord w s = held s (illegalEffect w s) := by simp only [acceptWord, hd]
  rw [haccept, held_idle _ _ hidle]
  rfl

end Sys2Proof
end

section
/-! PROOF. The words the engine shows: every answer is a response word, with an output byte only where a byte
command was carried out (R76, R131, R181); and the fields of the status word (R77). -/

namespace Sys2Proof.Machine

/-! ### Answers -/

/-- A response word with no output byte is an answer (R76). -/
theorem answer_zero (opc : BitVec 4) (p : Phase) (r : Result) : Answer (responseWord opc p r 0) :=
  ⟨opc, p, r, 0, rfl, fun h => absurd rfl h⟩

/-- No acceptance puts an output byte in LAST_RSP. -/
theorem AcceptEvent.answer_lastRsp {s t : State} {i : Instr} (hev : AcceptEvent s i t)
    (h : Answer s.lastRsp) : Answer t.lastRsp := by
  cases hev with
  | initStarts | byteStarts => exact h
  | nop | keyPush | ivPush | constructFails | constructs | initTooEarly | initFails | byteRefused =>
    exact answer_zero ..

/-- The sequencer puts an output byte in LAST_RSP only where it ends a byte command, whose opcode PEND_OPC
holds (R30, R151). -/
theorem SequencerEvent.answer_lastRsp {s t : State} (hev : SequencerEvent s t) (hinv : SequencerInv s)
    (h : Answer s.lastRsp) : Answer t.lastRsp := by
  cases hev with
  | idle | warms | packs => exact h
  | warmsLast => exact answer_zero ..
  | packsLast hp => exact ⟨_, _, _, _, rfl, fun _ => ⟨rfl, hinv.byteOpcode hp⟩⟩

/-- Every step leaves an answer in LAST_RSP. -/
theorem StepEvent.answer_lastRsp {s t : State} (hev : StepEvent s t) (hinv : SequencerInv s)
    (h : Answer s.lastRsp) : Answer t.lastRsp := by
  cases hev with
  | reset => exact answer_zero 0 .empty .ok
  | sequence _ u hseq => exact hseq.answer_lastRsp hinv h
  | accept i _ _ haccept => exact haccept.answer_lastRsp h
  | illegal => exact answer_zero ..

/-- What a step has delivered was delivered before it, or is the word in LAST_RSP. -/
theorem mem_hostOut_of_step {s t : State} (h : step s = .next t) {w : Word} (hw : w ∈ t.hostOut) :
    w ∈ s.hostOut ∨ w = t.lastRsp := by
  by_cases hr : Resets s
  · rw [step_of_resets hr h] at hw
    exact .inl hw
  · obtain ⟨⟨hout, -⟩ | hout, -⟩ := everyCommandAnsweredOnce s t hr h
    · exact .inl (hout ▸ hw)
    · rw [hout] at hw
      simpa using hw

/-- Settles O36: the only word a step can add to those delivered is the one it leaves in LAST_RSP. -/
theorem onlyByteAnswersHaveDout : Obligations.OnlyByteAnswersHaveDout := by
  intro s t hinv h hstep
  obtain ⟨hlast, hout⟩ := List.forall_mem_cons.1 h
  have hlast' : Answer t.lastRsp := (step_stepEvent hstep).answer_lastRsp hinv hlast
  refine List.forall_mem_cons.2 ⟨hlast', fun w hw => ?_⟩
  obtain hold | rfl := mem_hostOut_of_step hstep hw
  · exact hout w hold
  · exact hlast'

/-! ### The status word -/

/-- A field of a word, from its bits. -/
theorem word_field {w : Word} {start len : Nat} {x : BitVec len}
    (h : ∀ i, i < len → w.getLsbD (start + i) = x.getLsbD i) : w.extractLsb' start len = x := by
  apply BitVec.eq_of_getLsbD_eq
  intro i hi
  rw [BitVec.getLsbD_extractLsb', h i hi]
  simp [hi]

/-- BUSY read back from the status word (R77). -/
theorem statusWord_busy (s : State) : (statusWord s).extractLsb' 3 1 = BitVec.ofBool s.busy :=
  word_field fun i hi => by
    obtain rfl : i = 0 := by omega
    rw [statusWord_getLsbD, if_neg (by omega), if_pos (by omega)]
    simp

/-- BUSY is 1 exactly while an operation is in progress (R31). -/
theorem ofBool_busy_eq_one_iff (s : State) : BitVec.ofBool s.busy = 1#1 ↔ s.pend ≠ .none := by
  rw [← not_iff_not, not_not, ← busy_eq_false_iff]
  cases s.busy <;> decide

/-- Settles O7, field by field. -/
theorem statusWordFields : Obligations.StatusWordFields := by
  refine fun s => ⟨word_field fun i hi => ?phase, ?busy, word_field fun i hi => ?zero,
    word_field fun i hi => ?keyCount, word_field fun i hi => ?ivCount,
    word_field fun i hi => ?high⟩
  case busy => rw [statusWord_busy, ofBool_busy_eq_one_iff]
  case phase => rw [statusWord_getLsbD, Nat.zero_add, if_pos hi]
  case zero =>
    rw [statusWord_getLsbD, if_neg (by omega), if_neg (by omega), if_pos (by omega), BitVec.getLsbD_zero]
  case keyCount =>
    rw [statusWord_getLsbD, if_neg (by omega), if_neg (by omega), if_neg (by omega), if_pos (by omega),
      Nat.add_sub_cancel_left]
  case ivCount =>
    rw [statusWord_getLsbD, if_neg (by omega), if_neg (by omega), if_neg (by omega), if_neg (by omega),
      if_pos (by omega), Nat.add_sub_cancel_left]
  case high =>
    rw [statusWord_getLsbD, if_neg (by omega), if_neg (by omega), if_neg (by omega), if_neg (by omega),
      if_neg (by omega), BitVec.getLsbD_zero]

end Sys2Proof.Machine
end

section
/-! PROOF. The assembler's CONSTRUCT (R81), and the boot sequence of R202: the key pushed and taken by CONSTRUCT,
then the IV pushed and taken by INITIALIZE. -/

namespace Sys2Proof.Machine

/-! ### Assembling CONSTRUCT (R81) -/

/-- An assembled word with DATA8 = 0, its fields put in place by shifts (R81). -/
theorem assembleWord_eq_or (o : BitVec 4) (k v : BitVec 8) :
    assembleWord o 0 k v =
      o.setWidth 32 ||| k.setWidth 32 <<< 16 ||| v.setWidth 32 <<< 24 := by
  apply BitVec.eq_of_getLsbD_eq
  intro i hi
  simp only [assembleWord_getLsbD, BitVec.getLsbD_or, BitVec.getLsbD_shiftLeft, BitVec.getLsbD_setWidth, hi]
  split_ifs with h4 h8 h16 h24
  · simp [show i < 16 by omega, show i < 24 by omega]
  · simp [show i < 16 by omega, show i < 24 by omega, BitVec.getLsbD_of_ge o i (by omega)]
  · simp [h16, show i < 24 by omega, show i - 16 < 32 by omega, BitVec.getLsbD_of_ge o i (by omega)]
  · simp [h16, h24, show i - 16 < 32 by omega, BitVec.getLsbD_of_ge o i (by omega)]
  · simp [h16, h24, BitVec.getLsbD_of_ge o i (by omega), BitVec.getLsbD_of_ge k (i - 16) (by omega),
      show i - 24 < 32 by omega]

/-- The field of a size in bits is the size divided by 8 (R81). -/
theorem sizeField_ofNat {n : Nat} (h : n ≤ 2040) :
    (sizeField (BitVec.ofNat 11 n)).setWidth 32 = BitVec.ofNat 32 (n / 8) := by
  apply BitVec.eq_of_toNat_eq
  rw [BitVec.toNat_setWidth, sizeField_toNat, BitVec.toNat_ofNat, BitVec.toNat_ofNat]
  omega

/-- A size the assembler takes is encodable (R73). -/
theorem sizeEncodable_ofNat {n : Nat} (h8 : n % 8 = 0) : SizeEncodable (BitVec.ofNat 11 n) := by
  rw [SizeEncodable, BitVec.toNat_ofNat]
  omega

/-- CONSTRUCT as the assembler takes it, when both sizes have an encoding (R81). -/
theorem asmConstruct_ok {ks ivs : Nat} (hks : ks % 8 = 0) (hivs : ivs % 8 = 0) (hks' : ks ≤ 2040)
    (hivs' : ivs ≤ 2040) :
    asmConstruct ks ivs = .ok (.construct (BitVec.ofNat 11 ks) (BitVec.ofNat 11 ivs)) :=
  if_neg (by omega)

/-- CONSTRUCT as the assembler refuses it (R81). -/
theorem asmConstruct_error {ks ivs : Nat} (h : ks % 8 ≠ 0 ∨ ivs % 8 ≠ 0 ∨ 2040 < ks ∨ 2040 < ivs) :
    asmConstruct ks ivs = .error .sizeNotEncodable :=
  if_pos h

/-- Settles O50. -/
theorem assemblerEncodesConstruct : Obligations.AssemblerEncodesConstruct := by
  refine ⟨fun ks ivs => ?sizes, rfl, rfl, rfl⟩
  by_cases hbad : ks % 8 ≠ 0 ∨ ivs % 8 ≠ 0 ∨ 2040 < ks ∨ 2040 < ivs
  · rw [asmConstruct_error hbad]
    exact ⟨iff_of_true ⟨_, rfl⟩ hbad, fun i hi => nomatch hi⟩
  · obtain ⟨hks, hivs, hks', hivs'⟩ : ks % 8 = 0 ∧ ivs % 8 = 0 ∧ ks ≤ 2040 ∧ ivs ≤ 2040 := by omega
    rw [asmConstruct_ok hks hivs hks' hivs']
    refine ⟨iff_of_false (fun ⟨e, he⟩ => nomatch he) hbad, ?_⟩
    rintro _ ⟨⟩
    refine ⟨⟨sizeEncodable_ofNat hks, sizeEncodable_ofNat hivs⟩, ?_⟩
    rw [← sizeField_ofNat hks', ← sizeField_ofNat hivs']
    exact assembleWord_eq_or 3 _ _

/-! ### Bytes pushed in order (R122, R123) -/

/-- A transfer buffer and its count after bytes are pushed in order. -/
def pushBytes : List Byte → Block × BitVec 8 → Block × BitVec 8
  | [], b => b
  | d :: ds, b => pushBytes ds (pushByte b.1 b.2 d, satInc b.2)

/-- The count below 255 goes up by one (R7). -/
theorem satInc_toNat_of_lt {c : BitVec 8} (h : c.toNat < 255) : (satInc c).toNat = c.toNat + 1 := by
  rw [satInc_toNat, Nat.min_eq_left h]

/-- Bytes pushed are counted. -/
theorem pushBytes_count (bs : List Byte) (b : Block × BitVec 8) (h : b.2.toNat + bs.length ≤ 255) :
    (pushBytes bs b).2.toNat = b.2.toNat + bs.length := by
  induction bs generalizing b with
  | nil => rfl
  | cons d ds ih =>
    rw [List.length_cons] at h ⊢
    have hcount : (satInc b.2).toNat = b.2.toNat + 1 := satInc_toNat_of_lt (by omega)
    rw [pushBytes, ih _ (by rw [hcount]; omega), hcount]
    omega

/-- A byte pushed stands behind those counted before it. -/
theorem pushByte_take (buf : Block) {count : BitVec 8} (d : Byte) (h : count.toNat < 16) :
    (pushByte buf count d).toList.take (count.toNat + 1) = buf.toList.take count.toNat ++ [d] := by
  rw [pushByte, Config.bufferCap, if_pos h, Vector.toList_setIfInBounds, List.take_add_one,
    List.take_set_of_le le_rfl, List.getElem?_set_self (by simpa using h)]
  rfl

/-- Bytes pushed stand in order behind those counted before them. -/
theorem pushBytes_take (bs : List Byte) (b : Block × BitVec 8) (h : b.2.toNat + bs.length ≤ 16) :
    (pushBytes bs b).1.toList.take (b.2.toNat + bs.length) = b.1.toList.take b.2.toNat ++ bs := by
  induction bs generalizing b with
  | nil => simp [pushBytes]
  | cons d ds ih =>
    rw [List.length_cons] at h ⊢
    have hcount : (satInc b.2).toNat = b.2.toNat + 1 := satInc_toNat_of_lt (by omega)
    have hrest := ih (pushByte b.1 b.2 d, satInc b.2) (by rw [hcount]; omega)
    rw [hcount, pushByte_take b.1 d (by omega), List.append_assoc] at hrest
    rw [pushBytes, Nat.add_comm ds.length, ← Nat.add_assoc]
    exact hrest

/-- Bytes pushed into an empty buffer: they are counted and stand at its start. -/
theorem pushBytes_empty {bs : List Byte} (buf : Block) (h : bs.length ≤ 16) :
    (pushBytes bs (buf, 0)).2.toNat = bs.length ∧
      (pushBytes bs (buf, 0)).1.toList.take bs.length = bs := by
  have hcount := pushBytes_count bs (buf, 0) (by simp; omega)
  have htake := pushBytes_take bs (buf, 0) (by simpa using h)
  exact ⟨by simpa using hcount, by simpa using htake⟩

/-! ### Commands issued in order -/

/-- A well-formed command issued is its one transition: its word reaches the engine as that command. -/
theorem issue_eq_atomicCommand {i : Instr} (h : WellFormed i) (s : State) :
    issue i s = atomicCommand i s := by
  simp only [issue, commandLevel, decode_encode h]

/-- Commands issued compose. -/
theorem issueAll_append (is js : List Instr) (s : State) :
    issueAll (is ++ js) s = issueAll js (issueAll is s) := by
  induction is generalizing s with
  | nil => rfl
  | cons i is ih => exact ih (issue i s)

/-- Key bytes issued in order are pushed and answered; nothing else changes. -/
theorem issueAll_keyPush (bs : List Byte) (s : State) :
    ∃ w outs, issueAll (bs.map .keyPush) s =
      { s with
        keyBuf := (pushBytes bs (s.keyBuf, s.keyCount)).1
        keyCount := (pushBytes bs (s.keyBuf, s.keyCount)).2
        lastRsp := w, hostOut := outs } := by
  induction bs generalizing s with
  | nil => exact ⟨_, _, rfl⟩
  | cons d ds ih =>
    obtain ⟨w, outs, e⟩ := ih (atomicCommand (.keyPush d) s)
    rw [List.map_cons, issueAll, issue_eq_atomicCommand trivial, e]
    exact ⟨w, outs, rfl⟩

/-- IV bytes issued in order are pushed and answered; nothing else changes. -/
theorem issueAll_ivPush (bs : List Byte) (s : State) :
    ∃ w outs, issueAll (bs.map .ivPush) s =
      { s with
        ivBuf := (pushBytes bs (s.ivBuf, s.ivCount)).1
        ivCount := (pushBytes bs (s.ivBuf, s.ivCount)).2
        lastRsp := w, hostOut := outs } := by
  induction bs generalizing s with
  | nil => exact ⟨_, _, rfl⟩
  | cons d ds ih =>
    obtain ⟨w, outs, e⟩ := ih (atomicCommand (.ivPush d) s)
    rw [List.map_cons, issueAll, issue_eq_atomicCommand trivial, e]
    exact ⟨w, outs, rfl⟩

/-! ### The key taken by CONSTRUCT, and the IV by INITIALIZE -/

/-- CONSTRUCT whose checks pass (R124). -/
theorem constructEffect_of_succeeds {s : State} {ks ivs : BitVec 11} (h : ConstructSucceeds s ks ivs) :
    constructEffect ks ivs s = respond 0x3 .ok 0 (clearKeyBuf (constructed ivs s)) := by
  obtain ⟨hsup, hcount⟩ := (constructSucceeds_iff s ks ivs).1 h
  rw [constructEffect, if_neg (by simp [hsup]), if_neg (by simp [hcount])]

/-- Sixteen key bytes into an empty key buffer and a CONSTRUCT of a supported configuration store that key. -/
theorem issueAll_key_construct (s : State) {key : List Byte} {ivs : BitVec 11} (hcount : s.keyCount = 0)
    (hkey : key.length = 16) (hivs : ivs = 96 ∨ ivs = 128) :
    ∃ t, issueAll (key.map .keyPush ++ [.construct 128 ivs]) s = t ∧ t.key.toList = key ∧
      t.phase = .constructed ∧ t.ivSize = ivs.setWidth 8 ∧ t.ivCount = s.ivCount ∧ t.pend = s.pend := by
  obtain ⟨w, outs, hpush⟩ := issueAll_keyPush key s
  obtain ⟨hfull, htake⟩ := pushBytes_empty s.keyBuf hkey.le
  have hwf : WellFormed (.construct 128 ivs) := by
    obtain rfl | rfl := hivs <;> decide
  rw [hcount] at hpush
  rw [issueAll_append, hpush, issueAll, issueAll, issue_eq_atomicCommand hwf, atomicCommand,
    constructEffect_of_succeeds ⟨rfl, hivs, ?full⟩]
  case full => exact BitVec.eq_of_toNat_eq (hfull.trans hkey)
  refine ⟨_, rfl, ?_, rfl, rfl, rfl, rfl⟩
  rwa [List.take_of_length_le (by simp [hkey])] at htake

/-- INITIALIZE whose checks pass, as one transition (R130). -/
theorem initAtomic_of_succeeds {s : State} (hready : s.phase ≠ .empty)
    (hlen : s.ivCount.toNat = s.ivSize.toNat / 8) :
    initAtomic s = respond 0x4 .ok 0
      { s with
        nfsr := (warmSteps 256 (loadRegs s).regs).nfsr, lfsr := (warmSteps 256 (loadRegs s).regs).lfsr,
        ivBuf := zeroBlock, ivCount := 0, warmCount := 256, phase := .keystreaming } :=
  if_neg (by simp [hready, (ivLengthOk_iff s).2 hlen])

/-- What an INITIALIZE whose checks pass leaves (R130). -/
theorem initAtomic_warmedUp {s : State} (hready : s.phase ≠ .empty)
    (hlen : s.ivCount.toNat = s.ivSize.toNat / 8) :
    (initAtomic s).pend = s.pend ∧ (initAtomic s).phase = .keystreaming ∧ (initAtomic s).key = s.key ∧
      (initAtomic s).lastRsp = 0x00043000#32 ∧
      (initAtomic s).regs =
        warmSteps 256 { nfsr := loadNfsr s.key, lfsr := loadLfsr (s.ivSize.toNat / 8) s.ivBuf } := by
  have hword : responseWord 0x4 .keystreaming .ok 0 = 0x00043000#32 := by decide
  have hload : (loadRegs s).regs =
      { nfsr := loadNfsr s.key, lfsr := loadLfsr (s.ivSize.toNat / 8) s.ivBuf } := rfl
  rw [initAtomic_of_succeeds hready hlen, hload]
  generalize warmSteps 256 _ = r
  exact ⟨rfl, rfl, rfl, hword, rfl⟩

/-- An IV of the length IVSIZE asks for, pushed into an empty IV buffer, and an INITIALIZE warm the registers up
from KEY and that IV (R126, R130). -/
theorem issueAll_iv_init (s : State) {iv : List Byte} (hready : s.phase ≠ .empty) (hcount : s.ivCount = 0)
    (hlen : iv.length = s.ivSize.toNat / 8) (hle : iv.length ≤ 16) :
    ∃ t, issueAll (iv.map .ivPush ++ [.init]) s = t ∧ t.pend = s.pend ∧ t.phase = .keystreaming ∧
      t.key = s.key ∧ t.lastRsp = 0x00043000#32 ∧
      t.regs = warmSteps 256
        { nfsr := loadNfsr s.key, lfsr := cellsOfBytes (iv ++ List.replicate (16 - iv.length) 0xFF) } := by
  obtain ⟨w, outs, hpush⟩ := issueAll_ivPush iv s
  obtain ⟨hfull, htake⟩ := pushBytes_empty s.ivBuf hle
  have hload : loadLfsr iv.length (pushBytes iv (s.ivBuf, 0)).1 =
      cellsOfBytes (iv ++ List.replicate (16 - iv.length) 0xFF) := by rw [loadLfsr, htake]
  rw [hcount] at hpush
  rw [issueAll_append, hpush, issueAll, issueAll, issue_eq_atomicCommand trivial, atomicCommand, ← hload, hlen]
  refine ⟨_, rfl, initAtomic_warmedUp ?ready ?full⟩
  case ready => exact hready
  case full => exact hfull.trans hlen

/-- Settles O49: SETUP is the two halves of the boot sequence, one after the other. -/
theorem bootSequenceReachesKeystreaming : Obligations.BootSequenceReachesKeystreaming := by
  intro s key iv hidle hkeyCount hivCount hkey hiv
  obtain ⟨ivs, hivs, hsize, hasm⟩ : ∃ ivs : BitVec 11, (ivs = 96 ∨ ivs = 128) ∧
      (ivs.setWidth 8).toNat / 8 = iv.length ∧
      asmConstruct (8 * key.length) (8 * iv.length) = .ok (.construct 128 ivs) := by
    rw [hkey]
    obtain h | h := hiv <;> rw [h]
    · exact ⟨96, .inl rfl, rfl, rfl⟩
    · exact ⟨128, .inr rfl, rfl, rfl⟩
  obtain ⟨u, hu, hukey, huphase, husize, hucount, hupend⟩ :=
    issueAll_key_construct s hkeyCount hkey hivs
  obtain ⟨t, ht, htpend, htphase, htkey, htrsp, htregs⟩ :=
    issueAll_iv_init u (by simp [huphase]) (hucount.trans hivCount) (by rw [husize, hsize]) (by omega)
  have hboot : bootSequence key iv s = .ok t := by
    simp only [bootSequence, expand, hasm, Except.map]
    rw [List.append_assoc, issueAll_append, hu, ht]
  rw [loadNfsr, hukey] at htregs
  exact ⟨t, hboot, htpend.trans (hupend.trans hidle), htphase, htkey ▸ hukey, htrsp, htregs⟩

end Sys2Proof.Machine
end

section
/-! PROOF. The step function (R100 to R111): the three bits of a step and their taps, the shift, and the
all-zero registers with the keys and IVs that load them; and that no engine step stops (R108, R184). -/

namespace Sys2Proof.Machine

/-- Settles O32: every step answers the state `nextState` names. -/
theorem stepNeverStops : Obligations.StepNeverStops := fun s => ⟨nextState s, step_eq_nextState s⟩

/-! ### The shift (R104) -/

/-- A cell below the top takes its upper neighbour. -/
theorem shiftIn_getLsbD_of_lt (c : Cells) (b : Bool) {i : Nat} (h : i < 127) :
    (shiftIn c b).getLsbD i = c.getLsbD (i + 1) := by
  rw [shiftIn_getLsbD, if_neg (Nat.ne_of_lt h)]

/-- The top cell takes the new bit. -/
theorem shiftIn_getLsbD_top (c : Cells) (b : Bool) : (shiftIn c b).getLsbD 127 = b := by
  rw [shiftIn_getLsbD, if_pos rfl]

/-- A step from the all-zero registers gives a zero bit and changes nothing (R111). -/
theorem cipherStep_zero : cipherStep { nfsr := 0, lfsr := 0 } = (false, { nfsr := 0, lfsr := 0 }) := by
  decide

/-- Settles O8: the bits are the rules' formulas by definition, each cell follows from the shift's lemmas, and
the corner cases are evaluated. -/
theorem stepReadsThenShifts : Obligations.StepReadsThenShifts := by
  refine ⟨fun n l => ⟨rfl, fun i hi => ⟨?_, ?_⟩, ?_, ?_, rfl, rfl⟩, cipherStep_zero, ?_, ?_⟩
  · exact shiftIn_getLsbD_of_lt n _ hi
  · exact shiftIn_getLsbD_of_lt l _ hi
  · exact shiftIn_getLsbD_top n _
  · exact shiftIn_getLsbD_top l _
  · rintro _ rfl
    decide
  · decide

/-! ### The taps (R107) -/

/-- The output bit is a function of nine NFSR cells and eight LFSR cells. -/
theorem outbit_congr {r t : Regs}
    (hn : ∀ i ∈ [2, 12, 15, 36, 45, 64, 73, 89, 95], r.nfsr.getLsbD i = t.nfsr.getLsbD i)
    (hl : ∀ i ∈ [8, 13, 20, 42, 60, 79, 93, 95], r.lfsr.getLsbD i = t.lfsr.getLsbD i) :
    outbit r = outbit t := by
  simp only [List.forall_mem_cons] at hn hl
  simp only [outbit, cell, hn, hl]

/-- The LFSR feedback bit is a function of six LFSR cells. -/
theorem lfsrBit_congr {r t : Regs}
    (hl : ∀ i ∈ [0, 7, 38, 70, 81, 96], r.lfsr.getLsbD i = t.lfsr.getLsbD i) : lfsrBit r = lfsrBit t := by
  simp only [List.forall_mem_cons] at hl
  simp only [lfsrBit, cell, hl]

/-- The NFSR feedback bit is a function of nineteen NFSR cells and LFSR cell 0. -/
theorem nfsrBit_congr {r t : Regs}
    (hn : ∀ i ∈ [0, 3, 11, 13, 17, 18, 26, 27, 40, 48, 56, 59, 61, 65, 67, 68, 84, 91, 96],
      r.nfsr.getLsbD i = t.nfsr.getLsbD i)
    (hl : r.lfsr.getLsbD 0 = t.lfsr.getLsbD 0) : nfsrBit r = nfsrBit t := by
  simp only [List.forall_mem_cons] at hn
  simp only [nfsrBit, cell, hn, hl]

/-- Settles O9: the taps of each bit are listed by its lemma, and every tap is below cell 97. -/
theorem tapsStayBelowCell97 : Obligations.TapsStayBelowCell97 := by
  refine ⟨fun r t h => ?_, fun r t => outbit_congr⟩
  have hn {taps : List Nat} (htaps : ∀ i ∈ taps, i < 97) :
      ∀ i ∈ taps, r.nfsr.getLsbD i = t.nfsr.getLsbD i := fun i hi => (h i (htaps i hi)).1
  have hl {taps : List Nat} (htaps : ∀ i ∈ taps, i < 97) :
      ∀ i ∈ taps, r.lfsr.getLsbD i = t.lfsr.getLsbD i := fun i hi => (h i (htaps i hi)).2
  exact ⟨outbit_congr (hn (by decide)) (hl (by decide)),
    nfsrBit_congr (hn (by decide)) (h 0 (by decide)).2, lfsrBit_congr (hl (by decide))⟩

/-! ### The all-zero registers (R111) -/

/-- A step's fixed point is a fixed point of any number of steps. -/
theorem cipherSteps_of_fixed {r : Regs} (h : (cipherStep r).2 = r) (k : Nat) : cipherSteps k r = r := by
  induction k with
  | zero => rfl
  | succ k ih => rw [cipherSteps_succ, ih, h]

/-- A warm-up step's fixed point is a fixed point of any number of warm-up steps. -/
theorem warmSteps_of_fixed {r : Regs} (h : warmStep r = r) (k : Nat) : warmSteps k r = r := by
  induction k with
  | zero => rfl
  | succ k ih => rw [warmSteps_succ, ih, h]

/-- Folding a zero bit into zero registers leaves them zero. -/
theorem warmStep_zero : warmStep { nfsr := 0, lfsr := 0 } = { nfsr := 0, lfsr := 0 } := by
  rw [warmStep, cipherStep_zero]
  decide

/-- Zero bytes lay zero cells. -/
theorem cellsOfBytes_eq_zero {bs : List Byte} (h : ∀ b ∈ bs, b = 0) : cellsOfBytes bs = 0 := by
  induction bs with
  | nil => rfl
  | cons b bs ih =>
    obtain ⟨hb, hbs⟩ := List.forall_mem_cons.1 h
    simp [cellsOfBytes, hb, ih hbs]

/-- Bytes that fit the register lay zero cells exactly when they are all zero. -/
theorem cellsOfBytes_eq_zero_iff {bs : List Byte} (hlen : bs.length ≤ 16) :
    cellsOfBytes bs = 0 ↔ ∀ b ∈ bs, b = 0 := by
  refine ⟨fun hzero b hb => ?_, cellsOfBytes_eq_zero⟩
  obtain ⟨i, hi, rfl⟩ := List.getElem_of_mem hb
  refine BitVec.eq_of_getLsbD_eq fun j hj => ?_
  have hcell := cellsOfBytes_getLsbD bs i j hj (by omega)
  simpa [hzero, hi] using hcell.symm

/-- The NFSR is loaded with zero exactly by the zero key (R125). -/
theorem loadNfsr_eq_zero_iff (key : Block) : loadNfsr key = 0 ↔ ∀ (i : Nat) (h : i < 16), key[i] = 0 := by
  rw [loadNfsr, cellsOfBytes_eq_zero_iff (by simp)]
  simp only [Vector.mem_toList_iff, Vector.forall_mem_iff_forall_getElem]

/-- A shorter IV is padded with ones, so the LFSR is not loaded with zero (R126). -/
theorem loadLfsr_ne_zero {m : Nat} (iv : Block) (hm : m < 16) : loadLfsr m iv ≠ 0 := by
  intro hzero
  rw [loadLfsr, cellsOfBytes_eq_zero_iff (by simp; omega)] at hzero
  have hpad : (0xFF : Byte) = 0 := hzero _ (List.mem_append_right _ (List.mem_replicate.2 ⟨by omega, rfl⟩))
  exact absurd hpad (by decide)

/-- A 16-byte IV is laid into the LFSR as a key into the NFSR (R125, R126). -/
theorem loadLfsr_full (iv : Block) : loadLfsr 16 iv = loadNfsr iv := by
  simp [loadLfsr, loadNfsr, List.take_of_length_le]

/-- Any number of steps leaves the all-zero registers zero. -/
theorem cipherSteps_zero (k : Nat) : cipherSteps k { nfsr := 0, lfsr := 0 } = { nfsr := 0, lfsr := 0 } :=
  cipherSteps_of_fixed (by rw [cipherStep_zero]) k

/-- Every bit of a keystream byte of the all-zero registers is the zero bit of a step. -/
theorem ksByteOf_zero : ksByteOf { nfsr := 0, lfsr := 0 } = 0 := by
  refine BitVec.eq_of_getLsbD_eq fun k hk => ?_
  rw [keystreamByteBits _ k hk, cipherSteps_zero, cipherStep_zero]
  exact BitVec.getLsbD_zero.symm

/-- Settles O10: zero is a fixed point of both kinds of step, and the padding of a 96-bit IV is never zero. -/
theorem zeroRegistersAreFixed : Obligations.ZeroRegistersAreFixed := by
  refine ⟨fun k => ⟨cipherSteps_zero k, warmSteps_of_fixed warmStep_zero k, ?_⟩, fun key iv m hm => ?_⟩
  · rw [cipherSteps_zero, ksByteOf_zero]
  · obtain rfl | rfl := hm
    · have hpad : loadLfsr 12 iv ≠ 0 := loadLfsr_ne_zero iv (by decide)
      exact iff_of_false (fun h => hpad h.2) (fun h => absurd h.1 (by decide))
    · rw [loadLfsr_full, loadNfsr_eq_zero_iff, loadNfsr_eq_zero_iff]
      simp only [true_and]

end Sys2Proof.Machine
end

section
/-! PROOF. INITIALIZE from its acceptance to its answer (R127 to R130): one engine step of the warm-up, and the run
of a busy engine whose port holds. -/

namespace Sys2Proof.Machine

/-- Settles O31. -/
theorem stepRunsDecodedCommand : Obligations.StepRunsDecodedCommand := by
  intro s w rest hidle hport
  have hstep : step s = acceptWord w { s with hostIn := rest } := by
    rw [← step_command_idle s w rest hidle, ← hport]
  refine ⟨hstep, fun i hd => ?_⟩
  simp only [hstep, acceptWord, hd]

/-! ### One engine step of a warm-up (R128, R129) -/

/-- A step with the fold below the top: every cell takes its upper neighbour. -/
theorem foldTop_shiftIn_getLsbD_of_lt (c : Cells) (b o : Bool) {i : Nat} (h : i < 127) :
    (foldTop (shiftIn c b) o).getLsbD i = c.getLsbD (i + 1) := by
  rw [foldTop_getLsbD, if_neg (Nat.ne_of_lt h), shiftIn_getLsbD_of_lt c b h]

/-- A step with the fold at the top: the feedback bit xor the output bit. -/
theorem foldTop_shiftIn_getLsbD_top (c : Cells) (b o : Bool) :
    (foldTop (shiftIn c b) o).getLsbD 127 = (b ^^ o) := by
  rw [foldTop_getLsbD, if_pos rfl, shiftIn_getLsbD_top]

/-- Every engine step of a warm-up takes one warm-up step, the last one too. -/
theorem engineStep_regs_of_warmup {s : State} (h : s.pend = .warmup) :
    (engineStep s).regs = warmStep s.regs := by
  rw [engineStep_warmup s h]
  obtain ⟨-, e⟩ | ⟨-, e⟩ := warmupEngineStep_eq s <;> rw [e] <;> rfl

/-- The end of a warm-up answers the INITIALIZE (R129). -/
theorem warmupComplete_eq_answered (s : State) :
    warmupComplete s =
      State.answered { s with pend := .none, phase := .keystreaming } 0x00043000#32 := by
  have hword : responseWord 0x4 .keystreaming .ok 0 = 0x00043000#32 := by decide
  rw [← hword]
  rfl

/-- Settles O23: the cells by the shift's and the fold's lemmas, the frame by the two outcomes of the step. -/
theorem warmupEngineStep_spec : Obligations.WarmupEngineStep := by
  intro s hp t
  have hregs : t.regs = warmStep s.regs := engineStep_regs_of_warmup hp
  have hn : t.nfsr = foldTop (shiftIn s.nfsr (nfsrBit s.regs)) (outbit s.regs) := congrArg Regs.nfsr hregs
  have hl : t.lfsr = foldTop (shiftIn s.lfsr (lfsrBit s.regs)) (outbit s.regs) := congrArg Regs.lfsr hregs
  refine ⟨fun i hi => ⟨?_, ?_⟩, ?_, ?_, ?frame⟩
  · rw [hn, foldTop_shiftIn_getLsbD_of_lt _ _ _ hi]
  · rw [hl, foldTop_shiftIn_getLsbD_of_lt _ _ _ hi]
  · rw [hn, foldTop_shiftIn_getLsbD_top]
  · rw [hl, foldTop_shiftIn_getLsbD_top]
  case frame =>
    have ht : t = warmupEngineStep s := engineStep_warmup s hp
    obtain ⟨hc, e⟩ | ⟨hc, e⟩ := warmupEngineStep_eq s
    · rw [if_neg hc, hn, hl, ht, e]
      rfl
    · have hcount : s.warmCount + 1 = 256 := by rw [hc]; rfl
      rw [if_pos hc, hn, hl, ht, e, warmupComplete_eq_answered, ← hcount]
      rfl

/-! ### The run of a busy engine -/

/-- While the port holds, the machine's steps are the sequencer's, up to the one that ends the command. -/
theorem run_eq_engineSteps_of_busy {k : Nat} {s : State} (hport : PortHolds s)
    (hbusy : ∀ j, j < k → (engineSteps j s).pend ≠ .none) :
    core.run k s = .next (engineSteps k s) := by
  induction k generalizing s with
  | zero => rfl
  | succ k ih =>
    have hstep := step_busy s (hbusy 0 (Nat.succ_pos k)) hport
    have hport' : PortHolds (engineStep s) := by rwa [PortHolds, engineStep_hostIn]
    rw [run_succ k s _ hstep, ih hport' fun j hj => hbusy (j + 1) (Nat.succ_lt_succ hj)]
    rfl

/-- A warm-up is in progress until WARM_COUNT reaches 256 (R129). -/
theorem engineSteps_pend_of_warmup {k : Nat} {s : State} (hp : s.pend = .warmup)
    (hk : s.warmCount.toNat + k < 256) : (engineSteps k s).pend = .warmup := by
  induction k generalizing s with
  | zero => exact hp
  | succ k ih =>
    have hmore : s.warmCount ≠ 255 := by bv_omega
    obtain ⟨-, he⟩ := (warmupEngineStep_eq s).resolve_right fun h => hmore h.1
    have hcount : (s.warmCount + 1).toNat + k < 256 := by bv_omega
    rw [engineSteps, engineStep_warmup s hp, he]
    exact ih (s := warmupAdvance s) hp hcount

/-- INITIALIZE's acceptance when its checks pass (R127). -/
theorem initEffect_of_succeeds {s : State} (hready : s.phase ≠ .empty)
    (hlen : s.ivCount.toNat = s.ivSize.toNat / 8) :
    initEffect s = startWarmup (clearIvBuf (loadRegs s)) := by
  rw [initEffect, if_neg hready, if_neg (by simp [(ivLengthOk_iff s).2 hlen])]

/-- Settles O22: the acceptance starts a warm-up from count 0, which is busy for 256 engine steps, and those end
in the command's one transition. -/
theorem initializeCompletes : Obligations.InitializeCompletes := by
  intro s hidle hready hlen hport
  refine ⟨initEffect s, exec_idle .init s hidle, ?_⟩
  rw [run_eq_engineSteps_of_busy ?port ?busy]
  case port => rwa [PortHolds, initEffect_of_succeeds hready hlen]
  case busy =>
    intro j hj
    rw [initEffect_of_succeeds hready hlen, engineSteps_pend_of_warmup rfl (by simpa using hj)]
    simp
  have hword : responseWord 0x4 .keystreaming .ok 0 = 0x00043000#32 := by decide
  rw [engineSteps_initEffect s hidle, initAtomic_of_succeeds hready hlen, respond_eq_answered, ← hword]
  rfl

end Sys2Proof.Machine
end

section
/-! PROOF. The setup commands (R121 to R127): which words they are, and all that the acceptance of each writes. -/

namespace Sys2Proof

open Machine

/-! ### Which words they are (R74) -/

/-- A well-formed command is read from its own word and from no other. -/
theorem decode_eq_ok_iff {w : Word} {i : Instr} (hwf : WellFormed i) :
    decode w = .ok i ↔ encode i = w :=
  ⟨fun h => (wellFormed_encode_of_decode h).2, decode_of_encode_eq hwf⟩

/-- A word is assembled with a byte operand exactly when it matches the row of that opcode and has the byte in
DATA8. -/
theorem assembleWord_byte_eq_iff (w : Word) (o : BitVec 4) (d : Byte) :
    assembleWord o d 0 0 = w ↔ w &&& 0xFFFF00FF#32 = assembleWord o 0 0 0 ∧ d = w.extractLsb' 8 8 := by
  constructor
  · rintro rfl
    exact ⟨Laws.assembleWord_byte_mask o d, (data8_assembleWord o d 0 0).symm⟩
  · rintro ⟨hrow, rfl⟩
    exact eq_of_byteMask hrow

/-- A size that equals eight times a size field is that field scaled (R73). -/
theorem eq_sizeBits_iff (b : BitVec 11) (z : BitVec 8) : b = sizeBits z ↔ b.toNat = 8 * z.toNat := by
  rw [← sizeBits_toNat, BitVec.toNat_inj]

/-- CONSTRUCT is read exactly from the words of its row, its sizes from the size fields. -/
theorem decode_construct_iff (w : Word) (ks ivs : BitVec 11) :
    decode w = .ok (.construct ks ivs) ↔
      w &&& 0x0000FFFF#32 = 0x00000003#32 ∧ ks = sizeBits (ksz8 w) ∧ ivs = sizeBits (ivsz8 w) := by
  constructor
  · intro h
    obtain ⟨⟨hks, hivs⟩, rfl⟩ := wellFormed_encode_of_decode h
    have hk : ksz8 (encode (.construct ks ivs)) = sizeField ks := ksz8_assembleWord ..
    have hv : ivsz8 (encode (.construct ks ivs)) = sizeField ivs := ivsz8_assembleWord ..
    rw [hk, hv, sizeBits_sizeField ks hks, sizeBits_sizeField ivs hivs]
    exact ⟨Laws.assembleWord_size_mask 3 _ _, rfl, rfl⟩
  · rintro ⟨hrow, rfl, rfl⟩
    refine decode_of_encode_eq ⟨sizeEncodable_sizeBits _, sizeEncodable_sizeBits _⟩ ?_
    rw [encode_construct_sizeBits]
    exact eq_of_sizeMask (o := 3) hrow

end Sys2Proof

namespace Sys2Proof.Machine

/-! ### What their acceptance writes -/

/-- Settles O14. -/
theorem nopOnlyAnswers : Obligations.NopOnlyAnswers := by
  refine ⟨fun w => ?word, fun s hidle => exec_idle .nop s hidle, by decide⟩
  case word =>
    rw [decode_eq_ok_iff (i := .nop) trivial]
    exact eq_comm

/-- Settles O15. -/
theorem keyPushFillsKeyBuffer : Obligations.KeyPushFillsKeyBuffer := by
  refine ⟨fun w d => ?word, fun s d hidle => ⟨_, exec_idle (.keyPush d) s hidle, ?_, ?_, rfl⟩⟩
  case word =>
    rw [decode_eq_ok_iff (i := .keyPush d) trivial]
    exact assembleWord_byte_eq_iff w 1 d
  · exact fun i hi => pushByte_getElem s.keyBuf s.keyCount d i hi
  · exact satInc_toNat s.keyCount

/-- Settles O16. -/
theorem ivPushFillsIvBuffer : Obligations.IvPushFillsIvBuffer := by
  refine ⟨fun w d => ?word, fun s d hidle => ⟨_, exec_idle (.ivPush d) s hidle, ?_, ?_, rfl⟩⟩
  case word =>
    rw [decode_eq_ok_iff (i := .ivPush d) trivial]
    exact assembleWord_byte_eq_iff w 2 d
  · exact fun i hi => pushByte_getElem s.ivBuf s.ivCount d i hi
  · exact satInc_toNat s.ivCount

/-- CONSTRUCT's configuration check on the sizes as numbers (R124). -/
theorem supported_iff_toNat (ks ivs : BitVec 11) :
    supported ks ivs = true ↔ ks.toNat = 128 ∧ (ivs.toNat = 96 ∨ ivs.toNat = 128) := by
  simp [supported_iff, ← BitVec.toNat_inj]

/-- Settles O17: the words by CONSTRUCT's row, the effect by its three outcomes. -/
theorem constructChecksThenStores : Obligations.ConstructChecksThenStores := by
  refine ⟨fun w ks ivs => ?word, fun s ks ivs hidle => ?effect⟩
  case word =>
    rw [decode_construct_iff, eq_sizeBits_iff, eq_sizeBits_iff]
    rfl
  case effect =>
    rw [exec_idle _ s hidle]
    refine congrArg _ ?_
    show constructEffect ks ivs s = _
    obtain ⟨hsup, e⟩ | ⟨hsup, hcount, e⟩ | ⟨hsup, hcount, e⟩ := constructEffect_eq ks ivs s
    · rw [if_pos (mt (supported_iff_toNat ks ivs).2 (by simp [hsup])), e]
      rfl
    · rw [if_neg (not_not.2 ((supported_iff_toNat ks ivs).1 hsup)), if_pos hcount, e]
      rfl
    · rw [if_neg (not_not.2 ((supported_iff_toNat ks ivs).1 hsup)), if_neg (not_not.2 hcount), e,
        BitVec.ofNat_toNat]
      rfl

/-- Settles O18: the effect by its three outcomes. -/
theorem initializeChecksThenLoads : Obligations.InitializeChecksThenLoads := by
  refine ⟨fun w => ?word, fun s hidle => ?effect⟩
  case word =>
    rw [decode_eq_ok_iff (i := .init) trivial]
    exact eq_comm
  case effect =>
    rw [exec_idle _ s hidle]
    refine congrArg _ ?_
    show initEffect s = _
    obtain ⟨hph, e⟩ | ⟨hph, hlen, e⟩ | ⟨hph, hlen, e⟩ := initEffect_eq s
    · rw [if_pos hph, e, ← hph]
      rfl
    · rw [if_neg hph, if_pos (by simp [← ivLengthOk_iff, hlen]), e]
      rfl
    · rw [if_neg hph, if_neg (by simpa [← ivLengthOk_iff] using hlen), e]
      rfl

end Sys2Proof.Machine
end

section
/-! PROOF. The loader (R125, R126): where it puts each bit, and the packed value of what it loads. -/

namespace Sys2Proof.Machine

/-! ### The packed value of laid bytes (R53) -/

/-- Bytes as the digits of a number in base 256, the first lowest. -/
def byteDigits (bs : List Byte) : List Nat := bs.map BitVec.toNat

/-- Bytes are worth less than 256 to their number. -/
theorem ofDigits_byteDigits_lt (bs : List Byte) : Nat.ofDigits 256 (byteDigits bs) < 256 ^ bs.length := by
  have hdigit : ∀ x ∈ byteDigits bs, x < 256 := by
    simp only [byteDigits, List.forall_mem_map]
    exact fun b _ => b.isLt
  simpa [byteDigits] using Nat.ofDigits_lt_base_pow_length (by decide) hdigit

/-- A byte laid below others that leave room for it. -/
theorem cellsOfBytes_cons_toNat {b : Byte} {bs : List Byte} (hroom : (cellsOfBytes bs).toNat < 2 ^ 120) :
    (cellsOfBytes (b :: bs)).toNat = b.toNat + 256 * (cellsOfBytes bs).toNat := by
  have hb := b.isLt
  have hshift : (cellsOfBytes bs <<< 8).toNat = (cellsOfBytes bs).toNat <<< 8 := by
    rw [BitVec.toNat_shiftLeft, Nat.mod_eq_of_lt (by rw [Nat.shiftLeft_eq]; omega)]
  have hbyte : (b.setWidth 128).toNat = b.toNat := by
    rw [BitVec.toNat_setWidth, Nat.mod_eq_of_lt (by omega)]
  rw [cellsOfBytes, BitVec.toNat_or, hshift, hbyte, ← Nat.shiftLeft_add_eq_or_of_lt hb, Nat.shiftLeft_eq]
  omega

/-- The packed value of bytes that fit the register is their little-endian number. -/
theorem cellsOfBytes_toNat {bs : List Byte} (hlen : bs.length ≤ 16) :
    (cellsOfBytes bs).toNat = Nat.ofDigits 256 (byteDigits bs) := by
  induction bs with
  | nil => rfl
  | cons b bs ih =>
    rw [List.length_cons] at hlen
    have hrest := ih (by omega)
    have hroom : (cellsOfBytes bs).toNat < 2 ^ 120 := by
      rw [hrest]
      calc Nat.ofDigits 256 (byteDigits bs) < 256 ^ bs.length := ofDigits_byteDigits_lt bs
        _ ≤ 256 ^ 15 := Nat.pow_le_pow_right (by decide) (by omega)
        _ = 2 ^ 120 := by decide
    rw [cellsOfBytes_cons_toNat hroom, hrest, byteDigits, byteDigits, List.map_cons, Nat.ofDigits_cons]

/-- The number bytes stand for, as a sum over their places. -/
theorem ofDigits_byteDigits_ofFn {n : Nat} (f : Fin n → Byte) :
    Nat.ofDigits 256 (byteDigits (List.ofFn f)) = ∑ i : Fin n, (f i).toNat * 2 ^ (8 * i.val) := by
  induction n with
  | zero => rfl
  | succ n ih =>
    have hplace (i : Fin n) :
        256 * ((f i.succ).toNat * 2 ^ (8 * i.val)) = (f i.succ).toNat * 2 ^ (8 * i.succ.val) := by
      rw [Fin.val_succ, Nat.mul_succ, pow_add, mul_left_comm, mul_comm 256]
      rfl
    have hrest := ih fun i => f i.succ
    rw [byteDigits] at hrest
    rw [List.ofFn_succ, byteDigits, List.map_cons, Nat.ofDigits_cons, hrest, Finset.mul_sum,
      Finset.sum_congr rfl fun i _ => hplace i, Fin.sum_univ_succ]
    simp

/-! ### Sixteen bytes laid into a register (R51, R53) -/

/-- Sixteen bytes laid into a register: bit `j` of the `i`-th is cell `8 * i + j`. -/
theorem cellsOfBytes_ofFn_getLsbD (f : Fin 16 → Byte) {i j : Nat} (hi : i < 16) (hj : j < 8) :
    (cellsOfBytes (List.ofFn f)).getLsbD (8 * i + j) = (f ⟨i, hi⟩).getLsbD j := by
  have hlen : i < (List.ofFn f).length := by rwa [List.length_ofFn]
  rw [cellsOfBytes_getLsbD _ i j hj hi, List.getD_eq_getElem _ _ hlen, List.getElem_ofFn]

/-- Sixteen bytes laid into a register: the packed value. -/
theorem cellsOfBytes_ofFn_toNat (f : Fin 16 → Byte) :
    (cellsOfBytes (List.ofFn f)).toNat = ∑ i : Fin 16, (f i).toNat * 2 ^ (8 * i.val) := by
  rw [cellsOfBytes_toNat (by simp), ofDigits_byteDigits_ofFn]

/-- The bytes of a key, as the loader lays them (R125). -/
theorem loadNfsr_eq (key : Block) : loadNfsr key = cellsOfBytes (List.ofFn fun i : Fin 16 => key[i]) := by
  rw [loadNfsr]
  congr 1
  exact List.ext_getElem (by simp) fun i _ _ => by rw [Vector.getElem_toList, List.getElem_ofFn]; rfl

/-- Settles O11. -/
theorem loaderPlacesKeyBits : Obligations.LoaderPlacesKeyBits := by
  intro key
  rw [loadNfsr_eq]
  exact ⟨fun i j hi hj => cellsOfBytes_ofFn_getLsbD _ hi hj, cellsOfBytes_ofFn_toNat _⟩

/-- The byte the loader lays at a place of the LFSR: of the IV's `m` bytes, then 0xFF (R126). -/
def paddedIv (m : Nat) (iv : Block) (i : Fin 16) : Byte := if i.val < m then iv[i] else 0xFF

/-- The bytes of an IV and its padding, as the loader lays them (R126). -/
theorem loadLfsr_eq {m : Nat} (iv : Block) (hm : m ≤ 16) :
    loadLfsr m iv = cellsOfBytes (List.ofFn (paddedIv m iv)) := by
  rw [loadLfsr]
  congr 1
  have hivlen : (iv.toList.take m).length = m := by simpa using hm
  refine List.ext_getElem (by simp [hm]) fun i _ _ => ?_
  rw [List.getElem_ofFn, paddedIv]
  by_cases h : i < m
  · rw [List.getElem_append_left (by rwa [hivlen]), List.getElem_take, Vector.getElem_toList, if_pos h]
    rfl
  · rw [List.getElem_append_right (by rw [hivlen]; omega), List.getElem_replicate, if_neg h]

/-- The packed value of the padding alone, for the two IV sizes. -/
theorem padding_sum {m : Nat} (hm : m = 12 ∨ m = 16) :
    (∑ i : Fin 16, if i.val < m then 0 else 255 * 2 ^ (8 * i.val)) =
      if m = 12 then 0xFFFFFFFF * 2 ^ 96 else 0 := by
  obtain rfl | rfl := hm <;> decide

/-- Settles O12: each place holds an IV byte or the padding, and so does the sum over the places. -/
theorem loaderPlacesIvBits : Obligations.LoaderPlacesIvBits := by
  intro iv m hm
  rw [loadLfsr_eq iv (by omega)]
  refine ⟨fun i j hi hj him => ?iv, fun i j hi hj hmi => ?padding, ?packed⟩
  case iv =>
    rw [cellsOfBytes_ofFn_getLsbD _ hi hj, paddedIv, if_pos him]
    rfl
  case padding =>
    rw [cellsOfBytes_ofFn_getLsbD _ hi hj, paddedIv, if_neg (Nat.not_lt.2 hmi)]
    revert j; decide
  case packed =>
    rw [cellsOfBytes_ofFn_toNat, ← padding_sum hm, ← Finset.sum_add_distrib]
    refine Finset.sum_congr rfl fun i _ => ?_
    by_cases him : i.val < m <;> simp [paddedIv, him]

end Sys2Proof.Machine
end

section
/-! PROOF. The library's two setup operations (R160, R161): bytes of any number pushed, then the command that takes
them, and the result a driver reads from the last answer. -/

namespace Sys2Proof.Machine

/-! ### The result a driver reads (R76) -/

/-- A driver that reads an OK answer returns no error. -/
theorem lastResult_respond_ok (opc : BitVec 4) (d : Byte) (s : State) :
    lastResult (respond opc .ok d s) = (.ok (), respond opc .ok d s) := by
  simp [lastResult, lastError]

/-- A driver that reads any other answer returns its result. -/
theorem lastResult_respond_error {r : Result} (opc : BitVec 4) (d : Byte) (s : State) (h : r ≠ .ok) :
    lastResult (respond opc r d s) = (.error r, respond opc r d s) := by
  cases r with
  | ok => exact absurd rfl h
  | _ => simp [lastResult, lastError]

/-! ### Any number of bytes pushed (R122, R123) -/

/-- Bytes pushed are counted up to 255, however many. -/
theorem pushBytes_count_min (bs : List Byte) (b : Block × BitVec 8) :
    (pushBytes bs b).2.toNat = min (b.2.toNat + bs.length) 255 := by
  induction bs generalizing b with
  | nil => exact (Nat.min_eq_left (Nat.le_of_lt_succ b.2.isLt)).symm
  | cons d ds ih =>
    rw [pushBytes, ih, satInc_toNat, List.length_cons]
    omega

/-- The count of bytes pushed into an empty buffer is a length below 255 exactly when it is theirs. -/
theorem pushBytes_count_eq_iff (bs : List Byte) (buf : Block) {n : Nat} (hn : n < 255) :
    (pushBytes bs (buf, 0)).2.toNat = n ↔ bs.length = n := by
  rw [pushBytes_count_min, show (0 : BitVec 8).toNat = 0 from rfl]
  omega

/-- An engine after key bytes are pushed and answered, with the last answer and those delivered. -/
def keyPushed (key : List Byte) (w : Word) (outs : List Word) (s : State) : State :=
  { s with
    keyBuf := (pushBytes key (s.keyBuf, s.keyCount)).1
    keyCount := (pushBytes key (s.keyBuf, s.keyCount)).2
    lastRsp := w, hostOut := outs }

/-- An engine after IV bytes are pushed and answered, with the last answer and those delivered. -/
def ivPushed (iv : List Byte) (w : Word) (outs : List Word) (s : State) : State :=
  { s with
    ivBuf := (pushBytes iv (s.ivBuf, s.ivCount)).1
    ivCount := (pushBytes iv (s.ivBuf, s.ivCount)).2
    lastRsp := w, hostOut := outs }

/-! ### The key of the library (R160) -/

/-- `construct` with sizes that have an encoding is CONSTRUCT's acceptance after the key is pushed. -/
theorem libConstruct_eq (key : List Byte) {ks ivs : Nat} (s : State) (hks : ks % 8 = 0) (hivs : ivs % 8 = 0)
    (hks' : ks ≤ 2040) (hivs' : ivs ≤ 2040) :
    ∃ w outs, libConstruct key ks ivs s =
      lastResult (constructEffect (BitVec.ofNat 11 ks) (BitVec.ofNat 11 ivs) (keyPushed key w outs s)) := by
  obtain ⟨w, outs, hpush⟩ := issueAll_keyPush key s
  have hwf : WellFormed (.construct (BitVec.ofNat 11 ks) (BitVec.ofNat 11 ivs)) :=
    ⟨sizeEncodable_ofNat hks, sizeEncodable_ofNat hivs⟩
  refine ⟨w, outs, ?_⟩
  simp only [libConstruct, asmConstruct_ok hks hivs hks' hivs']
  rw [issueAll_append, hpush, issueAll, issueAll, issue_eq_atomicCommand hwf]
  rfl

/-- CONSTRUCT's configuration check on sizes that have an encoding (R124). -/
theorem supported_ofNat_iff {ks ivs : Nat} (hks : ks ≤ 2040) (hivs : ivs ≤ 2040) :
    supported (BitVec.ofNat 11 ks) (BitVec.ofNat 11 ivs) = true ↔ ks = 128 ∧ (ivs = 96 ∨ ivs = 128) := by
  rw [supported_iff_toNat, BitVec.toNat_ofNat, BitVec.toNat_ofNat, Nat.mod_eq_of_lt (by omega),
    Nat.mod_eq_of_lt (by omega)]

/-- The two configurations CONSTRUCT supports (R124). -/
theorem supported_128_ofNat {ivs : Nat} (h : ivs = 96 ∨ ivs = 128) :
    supported 128#11 (BitVec.ofNat 11 ivs) = true := by
  obtain rfl | rfl := h <;> rfl

/-- The key length check after a key is pushed into an empty buffer, whatever its length. -/
theorem keyPushed_keyCount_eq_iff {key : List Byte} {w : Word} {outs : List Word} {s : State}
    (hcount : s.keyCount = 0) : (keyPushed key w outs s).keyCount.toNat = 16 ↔ key.length = 16 := by
  rw [keyPushed, hcount]
  exact pushBytes_count_eq_iff key s.keyBuf (by decide)

/-- A 16-byte key pushed into an empty buffer fills it. -/
theorem keyPushed_keyBuf_toList {key : List Byte} (w : Word) (outs : List Word) {s : State}
    (hcount : s.keyCount = 0) (hkey : key.length = 16) : (keyPushed key w outs s).keyBuf.toList = key := by
  have htake := (pushBytes_empty s.keyBuf hkey.le).2
  rw [keyPushed, hcount]
  rwa [List.take_of_length_le (by simp [hkey])] at htake

/-- Sizes with no encoding are reported and nothing is issued. -/
theorem libConstruct_not_encodable (key : List Byte) {ks ivs : Nat} (s : State)
    (h : ks % 8 ≠ 0 ∨ ivs % 8 ≠ 0 ∨ 2040 < ks ∨ 2040 < ivs) :
    libConstruct key ks ivs s = (.error .unsupportedConfiguration, s) := by
  simp only [libConstruct, asmConstruct_error h]

/-- Sizes with an encoding that CONSTRUCT does not support are reported. -/
theorem libConstruct_unsupported (key : List Byte) {ks ivs : Nat} (s : State)
    (h : ¬ (ks = 128 ∧ (ivs = 96 ∨ ivs = 128))) :
    (libConstruct key ks ivs s).1 = .error .unsupportedConfiguration := by
  by_cases hbad : ks % 8 ≠ 0 ∨ ivs % 8 ≠ 0 ∨ 2040 < ks ∨ 2040 < ivs
  · rw [libConstruct_not_encodable key s hbad]
  · obtain ⟨hks, hivs, hks', hivs'⟩ : ks % 8 = 0 ∧ ivs % 8 = 0 ∧ ks ≤ 2040 ∧ ivs ≤ 2040 := by omega
    have hsup := mt (supported_ofNat_iff hks' hivs').1 h
    obtain ⟨w, outs, e⟩ := libConstruct_eq key s hks hivs hks' hivs'
    rw [e, constructEffect, if_pos (by simpa using hsup), lastResult_respond_error _ _ _ (by decide)]

/-- A key of another length than 16 is reported, and neither KEY nor PHASE is written. -/
theorem libConstruct_badLength {key : List Byte} {ivs : Nat} {s : State} (hcount : s.keyCount = 0)
    (hivs : ivs = 96 ∨ ivs = 128) (hkey : key.length ≠ 16) :
    (libConstruct key 128 ivs s).1 = .error .invalidKeyLength ∧
      (libConstruct key 128 ivs s).2.key = s.key ∧ (libConstruct key 128 ivs s).2.phase = s.phase := by
  obtain ⟨w, outs, e⟩ := libConstruct_eq key (ks := 128) (ivs := ivs) s rfl (by omega) (by decide) (by omega)
  rw [e, constructEffect, if_neg (by simp [supported_128_ofNat hivs]),
    if_pos (mt (keyPushed_keyCount_eq_iff hcount).1 hkey), lastResult_respond_error _ _ _ (by decide)]
  exact ⟨rfl, rfl, rfl⟩

/-- A 16-byte key is stored as given. -/
theorem libConstruct_succeeds {key : List Byte} {ivs : Nat} {s : State} (hcount : s.keyCount = 0)
    (hivs : ivs = 96 ∨ ivs = 128) (hkey : key.length = 16) :
    ∃ t, libConstruct key 128 ivs s = (.ok (), t) ∧ t.key.toList = key ∧ t.keySize = 128 ∧
      t.ivSize.toNat = ivs ∧ t.regs = { nfsr := 0, lfsr := 0 } ∧ t.phase = .constructed ∧
      t.keyCount = 0 ∧ t.pend = s.pend := by
  obtain ⟨w, outs, e⟩ := libConstruct_eq key (ks := 128) (ivs := ivs) s rfl (by omega) (by decide) (by omega)
  have hok : ConstructSucceeds (keyPushed key w outs s) 128#11 (BitVec.ofNat 11 ivs) :=
    (constructSucceeds_iff _ _ _).2 ⟨supported_128_ofNat hivs, (keyPushed_keyCount_eq_iff hcount).2 hkey⟩
  have hsize : ((BitVec.ofNat 11 ivs).setWidth 8).toNat = ivs := by
    obtain rfl | rfl := hivs <;> rfl
  rw [constructEffect_of_succeeds hok, lastResult_respond_ok] at e
  exact ⟨_, e, keyPushed_keyBuf_toList w outs hcount hkey, rfl, hsize, rfl, rfl, rfl, rfl⟩

/-- Settles O47: the four cases of the sizes and the key's length. -/
theorem libraryConstruct : Obligations.LibraryConstruct := by
  intro s key ks ivs hidle hcount
  refine ⟨libConstruct_not_encodable key s, libConstruct_unsupported key s, ?badLength, ?succeeds⟩
  case badLength =>
    rintro ⟨rfl, hivs⟩ hkey
    exact libConstruct_badLength hcount hivs hkey
  case succeeds =>
    rintro ⟨rfl, hivs⟩ hkey
    rw [← hidle]
    exact libConstruct_succeeds hcount hivs hkey

/-! ### The IV of the library (R161) -/

/-- An IV pushed and an INITIALIZE are INITIALIZE's one transition with that IV in the buffer. -/
theorem issueAll_ivPush_init (iv : List Byte) (s : State) :
    ∃ w outs, issueAll (iv.map .ivPush ++ [.init]) s = initAtomic (ivPushed iv w outs s) := by
  obtain ⟨w, outs, hpush⟩ := issueAll_ivPush iv s
  refine ⟨w, outs, ?_⟩
  rw [issueAll_append, hpush, issueAll, issueAll, issue_eq_atomicCommand trivial]
  rfl

/-- The IV length check after an IV is pushed into an empty buffer, whatever its length. -/
theorem ivPushed_ivCount_eq_iff {iv : List Byte} {w : Word} {outs : List Word} {s : State}
    (hcount : s.ivCount = 0) :
    (ivPushed iv w outs s).ivCount.toNat = (ivPushed iv w outs s).ivSize.toNat / 8 ↔
      iv.length = s.ivSize.toNat / 8 := by
  have hsize := s.ivSize.isLt
  rw [ivPushed, hcount]
  exact pushBytes_count_eq_iff iv s.ivBuf (by omega)

/-- INITIALIZE's one transition with an IV of the wrong length (R127). -/
theorem initAtomic_of_badLength {s : State} (hready : s.phase ≠ .empty)
    (hlen : s.ivCount.toNat ≠ s.ivSize.toNat / 8) :
    initAtomic s = respond 0x4 .invalidIvLength 0 (failInit s) := by
  have hbad : ivLengthOk s = false := by
    rw [← Bool.not_eq_true, ivLengthOk_iff]
    exact hlen
  rw [initAtomic, if_pos (.inr hbad), initEffect, if_neg hready, if_pos hbad]

/-- An IV of a wrong length is reported, and no register is written. -/
theorem libInitialize_badLength {iv : List Byte} {s : State} (hready : s.phase ≠ .empty)
    (hcount : s.ivCount = 0) (hlen : iv.length ≠ s.ivSize.toNat / 8) :
    ∃ t, libInitialize iv s = (.error .invalidIvLength, t) ∧ t.phase = .failed ∧ t.regs = s.regs ∧
      t.key = s.key := by
  obtain ⟨w, outs, e⟩ := issueAll_ivPush_init iv s
  have hready' : (ivPushed iv w outs s).phase ≠ .empty := hready
  rw [libInitialize, e, initAtomic_of_badLength hready' (mt (ivPushed_ivCount_eq_iff hcount).1 hlen),
    lastResult_respond_error _ _ _ (by decide)]
  exact ⟨_, rfl, rfl, rfl, rfl⟩

/-- An IV of the right length warms the registers up from KEY and that IV. -/
theorem libInitialize_succeeds {iv : List Byte} {s : State} (hready : s.phase ≠ .empty)
    (hcount : s.ivCount = 0) (hlen : iv.length = s.ivSize.toNat / 8) (hle : iv.length ≤ 16) :
    ∃ t, libInitialize iv s = (.ok (), t) ∧ t.phase = .keystreaming ∧ t.key = s.key ∧
      t.ivCount = 0 ∧ t.warmCount = 256 ∧ t.pend = s.pend ∧
      t.regs = warmSteps 256
        { nfsr := loadNfsr s.key, lfsr := cellsOfBytes (iv ++ List.replicate (16 - iv.length) 0xFF) } := by
  obtain ⟨t, ht, hpend, hphase, hkey, -, hregs⟩ := issueAll_iv_init s hready hcount hlen hle
  obtain ⟨w, outs, e⟩ := issueAll_ivPush_init iv s
  have hready' : (ivPushed iv w outs s).phase ≠ .empty := hready
  have hinit := initAtomic_of_succeeds hready' ((ivPushed_ivCount_eq_iff hcount).2 hlen)
  obtain ⟨hivCount, hwarm, hlib⟩ : t.ivCount = 0 ∧ t.warmCount = 256 ∧ libInitialize iv s = (.ok (), t) := by
    rw [libInitialize, ← ht, e, hinit]
    exact ⟨rfl, rfl, lastResult_respond_ok ..⟩
  exact ⟨t, hlib, hphase, hkey, hivCount, hwarm, hpend, hregs⟩

/-- Settles O48: the two cases of the IV's length. -/
theorem libraryInitialize : Obligations.LibraryInitialize := by
  intro s iv hidle hready hcount hsize
  refine ⟨libInitialize_badLength hready hcount, fun hlen => ?_⟩
  have hle : iv.length ≤ 16 := by
    obtain h | h := hsize <;> simp [hlen, h]
  rw [← hidle]
  exact libInitialize_succeeds hready hcount hlen hle

end Sys2Proof.Machine
end

section
/-! PROOF. The byte commands (R151 to R156): what their acceptance does in each phase, one engine step of the byte
sequencer, and the run from the acceptance to the answer. -/

namespace Sys2Proof.Machine

/-! ### The three byte commands as one -/

/-- A byte command's acceptance is the check and the start they share (R153 to R156). -/
theorem acceptEffect_of_byteOperand {i : Instr} {d : Byte} (h : byteOperand i = some d) (s : State) :
    acceptEffect i s = byteCommand (opcode i) d s := by
  cases i with
  | ksByte | encryptByte | decryptByte => cases h; rfl
  | nop | keyPush | ivPush | construct | init => cases h

/-- A byte command as one transition (R152). -/
theorem atomicCommand_of_byteOperand {i : Instr} {d : Byte} (h : byteOperand i = some d) (s : State) :
    atomicCommand i s = byteAtomic (opcode i) d s := by
  cases i with
  | ksByte | encryptByte | decryptByte => cases h; rfl
  | nop | keyPush | ivPush | construct | init => cases h

/-- Every byte command has a word (R73). -/
theorem wellFormed_of_byteOperand {i : Instr} {d : Byte} (h : byteOperand i = some d) : WellFormed i := by
  cases i with
  | ksByte | encryptByte | decryptByte => trivial
  | nop | keyPush | ivPush | construct | init => cases h

/-! ### Their acceptance (R153 to R156) -/

/-- A byte command accepted in KEYSTREAMING starts the byte sequencer (R153, R154, R155). -/
theorem exec_byte_of_keystreaming {i : Instr} {d : Byte} {s : State} (hbyte : byteOperand i = some d)
    (hidle : s.pend = .none) (hph : s.phase = .keystreaming) :
    exec i s = .next (startByte (opcode i) d s) := by
  rw [exec_idle i s hidle, acceptEffect_of_byteOperand hbyte, byteCommand, if_pos hph]

/-- A byte command accepted in another phase is answered at once (R156). -/
theorem exec_byte_of_not_keystreaming {i : Instr} {d : Byte} {s : State} (hbyte : byteOperand i = some d)
    (hidle : s.pend = .none) (hph : s.phase ≠ .keystreaming) :
    exec i s = .next (s.answered (responseWord (opcode i) s.phase .notInitialized 0)) := by
  rw [exec_idle i s hidle, acceptEffect_of_byteOperand hbyte, byteCommand, if_neg hph, respond_eq_answered]

/-- Settles O19: the three commands are refused alike, and the invariant ties INITIALIZING to a warm-up. -/
theorem byteCommandsNeedKeystreaming : Obligations.ByteCommandsNeedKeystreaming := by
  refine ⟨fun s d hidle hph => ⟨?_, ?_, ?_⟩, fun s hinv hph => ?busy⟩
  · exact exec_byte_of_not_keystreaming (i := .ksByte) rfl hidle hph
  · exact exec_byte_of_not_keystreaming (i := .encryptByte d) rfl hidle hph
  · exact exec_byte_of_not_keystreaming (i := .decryptByte d) rfl hidle hph
  case busy =>
    rw [hinv.warmupPhase.2 hph]
    decide

/-- Settles O20: the three commands start the sequencer alike. -/
theorem byteCommandsStartSequencer : Obligations.ByteCommandsStartSequencer := by
  intro s d hidle hph
  refine ⟨?_, ?_, ?_⟩
  · exact exec_byte_of_keystreaming (i := .ksByte) rfl hidle hph
  · exact exec_byte_of_keystreaming (i := .encryptByte d) rfl hidle hph
  · exact exec_byte_of_keystreaming (i := .decryptByte d) rfl hidle hph

/-! ### One engine step of a byte command (R151) -/

/-- Every engine step of a byte command packs its output bit, the last one too. -/
theorem engineStep_acc_of_byte {s : State} (h : s.pend = .byte) :
    (engineStep s).acc = packBit s.acc s.bitCount (outbit s.regs) := by
  rw [engineStep_byte s h]
  obtain ⟨-, e⟩ | ⟨-, e⟩ := byteEngineStep_eq s <;> rw [e] <;> rfl

/-- Settles O24: the packed bit by the packer's lemma, the frame by the two outcomes of the step. -/
theorem byteEngineStep_spec : Obligations.ByteEngineStep := by
  intro s hp t
  have hacc : t.acc = packBit s.acc s.bitCount (outbit s.regs) := engineStep_acc_of_byte hp
  refine ⟨fun k hk => ?_, ?frame⟩
  · rw [hacc, packBit_getLsbD _ _ _ k hk]
    rfl
  case frame =>
    have ht : t = byteEngineStep s := engineStep_byte s hp
    obtain ⟨hc, e⟩ | ⟨hc, e⟩ := byteEngineStep_eq s
    · rw [if_neg hc, hacc, ht, e]
      rfl
    · have hcount : s.bitCount + 1 = 8 := by rw [hc]; rfl
      rw [if_pos hc, hacc, ht, e, ← hcount]
      rfl

/-! ### The whole command (R152) -/

/-- A byte command is in progress until BIT_COUNT reaches 8 (R151). -/
theorem engineSteps_pend_of_byte {k : Nat} {s : State} (hp : s.pend = .byte)
    (hk : s.bitCount.toNat + k < 8) : (engineSteps k s).pend = .byte := by
  induction k generalizing s with
  | zero => exact hp
  | succ k ih =>
    have hmore : s.bitCount ≠ 7 := by bv_omega
    obtain ⟨-, he⟩ := (byteEngineStep_eq s).resolve_right fun h => hmore h.1
    have hcount : (s.bitCount + 1).toNat + k < 8 := by bv_omega
    rw [engineSteps, engineStep_byte s hp, he]
    exact ih (s := byteAdvance s) hp hcount

/-- A byte command as one transition in KEYSTREAMING (R152). -/
theorem byteAtomic_of_keystreaming (opc : BitVec 4) (d : Byte) {s : State} (hph : s.phase = .keystreaming) :
    byteAtomic opc d s = State.answered
      { s with
        nfsr := (cipherSteps 8 s.regs).nfsr, lfsr := (cipherSteps 8 s.regs).lfsr,
        pendOpc := opc, pendData := d, acc := ksByteOf s.regs, bitCount := 8 }
      (responseWord opc .keystreaming .ok (ksByteOf s.regs ^^^ d)) := by
  rw [byteAtomic, if_pos hph, respond_eq_answered, ← hph]
  rfl

/-- A byte command as one transition in another phase (R156). -/
theorem byteAtomic_of_not_keystreaming (opc : BitVec 4) (d : Byte) {s : State}
    (hph : s.phase ≠ .keystreaming) : byteAtomic opc d s = respond opc .notInitialized 0 s :=
  if_neg hph

/-- Eight engine steps of a byte command just started are its one transition: they leave the engine idle, so the
256 steps allowed to any command add nothing. -/
theorem engineSteps_startByte (opc : BitVec 4) (d : Byte) {s : State} (hidle : s.pend = .none)
    (hph : s.phase = .keystreaming) : engineSteps 8 (startByte opc d s) = byteAtomic opc d s := by
  have hstart : byteCommand opc d s = startByte opc d s := if_pos hph
  have hdone : (engineSteps 8 (startByte opc d s)).pend = .none := by
    rw [engineSteps_byte 7 (startByte opc d s) rfl rfl, byteComplete_pend]
  rw [← engineSteps_byteCommand opc d s hidle, hstart]
  exact (engineSteps_of_idle_at (by decide) hdone).symm

/-- Settles O21: the acceptance starts the sequencer from count 0, which is busy for 8 engine steps, and those
end in the command's one transition. -/
theorem byteCommandsDeliverKeystream : Obligations.ByteCommandsDeliverKeystream := by
  intro s i opc d hidle hph hport hi
  obtain ⟨hbyte, rfl⟩ : byteOperand i = some d ∧ opcode i = opc := by
    obtain ⟨rfl, rfl, rfl⟩ | ⟨rfl, rfl⟩ | ⟨rfl, rfl⟩ := hi <;> exact ⟨rfl, rfl⟩
  refine ⟨_, exec_byte_of_keystreaming hbyte hidle hph, ?_⟩
  rw [run_eq_engineSteps_of_busy ?port ?busy, engineSteps_startByte _ _ hidle hph,
    byteAtomic_of_keystreaming _ _ hph]
  case port => exact hport
  case busy =>
    intro j hj
    rw [engineSteps_pend_of_byte rfl (by simpa using hj)]
    decide

end Sys2Proof.Machine
end

section
/-! PROOF. The library's byte-string operations (R157 to R159, R162): all three are one request, which xors its
bytes with the keystream in KEYSTREAMING and is refused in every other phase. -/

namespace Sys2Proof.Machine

/-! ### Bytes xored with the keystream (R150, R158) -/

/-- Bytes xored in order with the keystream bytes that come next. -/
def xorKeystream : List Byte → Regs → List Byte
  | [], _ => []
  | d :: ds, r => (ksByteOf r ^^^ d) :: xorKeystream ds (cipherSteps 8 r)

@[simp] theorem xorKeystream_length (ds : List Byte) (r : Regs) : (xorKeystream ds r).length = ds.length := by
  induction ds generalizing r with
  | nil => rfl
  | cons d ds ih => rw [xorKeystream, List.length_cons, List.length_cons, ih]

/-- The same keystream twice cancels (R162). -/
theorem xorKeystream_xorKeystream (ds : List Byte) (r : Regs) :
    xorKeystream (xorKeystream ds r) r = ds := by
  induction ds generalizing r with
  | nil => rfl
  | cons d ds ih =>
    rw [xorKeystream, xorKeystream, ih, ← BitVec.xor_assoc, BitVec.xor_self, BitVec.zero_xor]

/-- Zeros xored with the keystream are its bytes, each from the eight steps after the one before it. -/
theorem xorKeystream_zeros (n : Nat) (r : Regs) :
    xorKeystream (List.replicate n 0) r = (List.range n).map fun k => ksByteOf (cipherSteps (8 * k) r) := by
  induction n generalizing r with
  | zero => rfl
  | succ n ih =>
    have hshift (k : Nat) : cipherSteps (8 * (k + 1)) r = cipherSteps (8 * k) (cipherSteps 8 r) := by
      rw [Nat.mul_succ, Nat.add_comm, cipherSteps_add]
    rw [List.replicate_succ, xorKeystream, ih, List.range_succ_eq_map, List.map_cons, List.map_map]
    simp [Function.comp_def, hshift, cipherSteps]

/-! ### One byte command issued -/

/-- A driver that reads an OK answer goes on. -/
theorem lastError_answered_ok (opc : BitVec 4) (p : Phase) (d : Byte) (s : State) :
    lastError (s.answered (responseWord opc p .ok d)) = none := by
  simp [lastError, State.answered]

/-- A driver that reads NOT_INITIALIZED stops. -/
theorem lastError_notInitialized (opc : BitVec 4) (s : State) :
    lastError (respond opc .notInitialized 0 s) = some .notInitialized := by
  simp [lastError, respond]

/-- A byte command issued is its one transition. -/
theorem issue_byte {i : Instr} {d : Byte} (h : byteOperand i = some d) (s : State) :
    issue i s = byteAtomic (opcode i) d s := by
  rw [issue_eq_atomicCommand (wellFormed_of_byteOperand h), atomicCommand_of_byteOperand h]

/-- What a driver reads from a byte command issued in KEYSTREAMING, and what the command leaves (R152). -/
theorem issue_byte_of_keystreaming {i : Instr} {d : Byte} {s : State} (h : byteOperand i = some d)
    (hph : s.phase = .keystreaming) :
    lastError (issue i s) = none ∧ rspDout (issue i s).lastRsp = ksByteOf s.regs ^^^ d ∧
      (issue i s).regs = cipherSteps 8 s.regs ∧ (issue i s).phase = .keystreaming ∧
      (issue i s).pend = s.pend := by
  rw [issue_byte h, byteAtomic_of_keystreaming _ _ hph]
  exact ⟨lastError_answered_ok .., rspDout_responseWord .., rfl, hph, rfl⟩

/-! ### Byte commands issued in order -/

/-- The first command answered OK, then the rest (R157). -/
theorem issueBytes_cons_of_ok {i : Instr} {is : List Instr} {s u : State} {bs : List Byte}
    (hfirst : lastError (issue i s) = none) (hrest : issueBytes is (issue i s) = (.ok bs, u)) :
    issueBytes (i :: is) s = (.ok (rspDout (issue i s).lastRsp :: bs), u) := by
  simp only [issueBytes, hfirst, hrest]

/-- The first command answered with an error ends the request (R157). -/
theorem issueBytes_cons_of_error {i : Instr} {s : State} {e : Result} (is : List Instr)
    (hfirst : lastError (issue i s) = some e) : issueBytes (i :: is) s = (.error e, issue i s) := by
  simp only [issueBytes, hfirst]

/-- Byte commands issued in KEYSTREAMING return their operands xored with the keystream. -/
theorem issueBytes_of_keystreaming {f : Byte → Instr} {ds : List Byte} {s : State}
    (hf : ∀ d ∈ ds, byteOperand (f d) = some d) (hph : s.phase = .keystreaming) :
    ∃ t, issueBytes (ds.map f) s = (.ok (xorKeystream ds s.regs), t) ∧
      t.regs = cipherSteps (8 * ds.length) s.regs ∧ t.phase = .keystreaming ∧ t.pend = s.pend := by
  induction ds generalizing s with
  | nil => exact ⟨s, rfl, rfl, hph, rfl⟩
  | cons d ds ih =>
    obtain ⟨hd, hds⟩ := List.forall_mem_cons.1 hf
    obtain ⟨hok, hdout, hregs, hphase, hpend⟩ := issue_byte_of_keystreaming hd hph
    obtain ⟨t, ht, htregs, htphase, htpend⟩ := ih hds hphase
    refine ⟨t, ?_, ?_, htphase, htpend.trans hpend⟩
    · rw [List.map_cons, issueBytes_cons_of_ok hok ht, hdout, hregs]
      rfl
    · rw [htregs, hregs, ← cipherSteps_add, List.length_cons, Nat.mul_succ, Nat.add_comm]

/-! ### The three operations as one request -/

/-- A request of the library: nothing issued for no bytes, else one command for each byte. -/
def byteRequest (f : Byte → Instr) (ds : List Byte) (s : State) : Except Result (List Byte) × State :=
  if ds = [] then emptyRequest s else issueBytes (ds.map f) s

/-- `keystream_bytes(n)` is a request for `n` zeros (R157). -/
theorem keystreamBytes_eq (n : Nat) (s : State) :
    keystreamBytes n s = byteRequest (fun _ => .ksByte) (List.replicate n 0) s := by
  simp only [keystreamBytes, byteRequest, List.replicate_eq_nil_iff, List.map_replicate]

/-- `encrypt_bytes(p)` is a request for the plaintext (R158). -/
theorem encryptBytes_eq (p : List Byte) (s : State) : encryptBytes p s = byteRequest .encryptByte p s := rfl

/-- `decrypt_bytes(c)` is a request for the ciphertext (R159). -/
theorem decryptBytes_eq (c : List Byte) (s : State) : decryptBytes c s = byteRequest .decryptByte c s := rfl

/-- KS_BYTE's operand is 0 (R153). -/
theorem byteOperand_ksByte_of_zeros (n : Nat) :
    ∀ d ∈ List.replicate n (0 : Byte), byteOperand .ksByte = some d :=
  fun _ hd => congrArg some (List.eq_of_mem_replicate hd).symm

/-- An empty request fails outside KEYSTREAMING, and issues nothing (R157). -/
theorem emptyRequest_eq (s : State) :
    emptyRequest s = (if s.phase = .keystreaming then .ok [] else .error .notInitialized, s) := by
  obtain ⟨hphase, -⟩ := statusWordFields s
  rw [emptyRequest, hphase]
  by_cases h : s.phase = .keystreaming
  · rw [if_pos h, if_pos (congrArg _ h)]
  · rw [if_neg h, if_neg (mt (phase_code_injective _ _) h)]

/-- A request in KEYSTREAMING returns its bytes xored with the keystream, and takes eight steps for each. -/
theorem byteRequest_of_keystreaming {f : Byte → Instr} {ds : List Byte} {s : State}
    (hf : ∀ d ∈ ds, byteOperand (f d) = some d) (hph : s.phase = .keystreaming) :
    ∃ t, byteRequest f ds s = (.ok (xorKeystream ds s.regs), t) ∧
      t.regs = cipherSteps (8 * ds.length) s.regs ∧ t.phase = .keystreaming ∧ t.pend = s.pend := by
  cases ds with
  | nil =>
    refine ⟨s, ?_, rfl, hph, rfl⟩
    rw [byteRequest, if_pos rfl, emptyRequest_eq, if_pos hph]
    rfl
  | cons d ds =>
    rw [byteRequest, if_neg (List.cons_ne_nil d ds)]
    exact issueBytes_of_keystreaming hf hph

/-- A request in another phase fails, and writes nothing but its answer. -/
theorem byteRequest_of_not_keystreaming {f : Byte → Instr} {ds : List Byte} {s : State}
    (hf : ∀ d ∈ ds, byteOperand (f d) = some d) (hph : s.phase ≠ .keystreaming) :
    ∃ t, byteRequest f ds s = (.error .notInitialized, t) ∧
      t = { s with lastRsp := t.lastRsp, hostOut := t.hostOut } := by
  cases ds with
  | nil =>
    refine ⟨s, ?_, rfl⟩
    rw [byteRequest, if_pos rfl, emptyRequest_eq, if_neg hph]
  | cons d ds =>
    have hissue : issue (f d) s = respond (opcode (f d)) .notInitialized 0 s := by
      rw [issue_byte (hf d List.mem_cons_self), byteAtomic_of_not_keystreaming _ _ hph]
    have hstop : lastError (issue (f d) s) = some .notInitialized := by
      rw [hissue, lastError_notInitialized]
    refine ⟨issue (f d) s, ?_, by rw [hissue]; rfl⟩
    rw [byteRequest, if_neg (List.cons_ne_nil d ds), List.map_cons, issueBytes_cons_of_error _ hstop]

/-- Which byte command carries the bytes is seen neither in what a request returns nor in the registers it
leaves, in any phase. -/
theorem byteRequest_congr {f g : Byte → Instr} {ds : List Byte} (s : State)
    (hf : ∀ d ∈ ds, byteOperand (f d) = some d) (hg : ∀ d ∈ ds, byteOperand (g d) = some d) :
    (byteRequest f ds s).1 = (byteRequest g ds s).1 ∧
      (byteRequest f ds s).2.regs = (byteRequest g ds s).2.regs := by
  by_cases hph : s.phase = .keystreaming
  · obtain ⟨t, ht, htregs, -⟩ := byteRequest_of_keystreaming hf hph
    obtain ⟨u, hu, huregs, -⟩ := byteRequest_of_keystreaming hg hph
    rw [ht, hu]
    exact ⟨rfl, htregs.trans huregs.symm⟩
  · obtain ⟨t, ht, htframe⟩ := byteRequest_of_not_keystreaming hf hph
    obtain ⟨u, hu, huframe⟩ := byteRequest_of_not_keystreaming hg hph
    rw [ht, hu, htframe, huframe]
    exact ⟨rfl, rfl⟩

/-! ### The operations -/

/-- Settles O43: `keystream_bytes(n)` xors `n` zeros with the keystream. -/
theorem keystreamBytesAreConsecutive : Obligations.KeystreamBytesAreConsecutive := by
  intro s n hidle hph
  obtain ⟨t, ht, hregs, hphase, hpend⟩ := byteRequest_of_keystreaming (byteOperand_ksByte_of_zeros n) hph
  rw [xorKeystream_zeros] at ht
  rw [List.length_replicate] at hregs
  exact ⟨t, (keystreamBytes_eq n s).trans ht, hregs, hphase, hpend.trans hidle⟩

/-- Settles O45: both operations xor with the same keystream, which cancels. -/
theorem decryptInvertsEncrypt : Obligations.DecryptInvertsEncrypt := by
  intro s s' p _ _ hph hph' hregs
  obtain ⟨t, ht, htregs, -⟩ := byteRequest_of_keystreaming (f := .encryptByte) (ds := p) (fun _ _ => rfl) hph
  obtain ⟨t', ht', htregs', -⟩ :=
    byteRequest_of_keystreaming (f := .decryptByte) (ds := xorKeystream p s.regs) (fun _ _ => rfl) hph'
  rw [hregs, xorKeystream_xorKeystream] at ht'
  rw [hregs, xorKeystream_length] at htregs'
  exact ⟨xorKeystream p s.regs, t, t', ht, xorKeystream_length p s.regs, ht', htregs'.trans htregs.symm⟩

/-- Settles O44: each operation is a request, and every request is refused alike. -/
theorem libraryNeedsKeystreaming : Obligations.LibraryNeedsKeystreaming := by
  intro s n p _ hph
  obtain ⟨t, ht, htframe⟩ := byteRequest_of_not_keystreaming (byteOperand_ksByte_of_zeros n) hph
  obtain ⟨u, hu, huframe⟩ :=
    byteRequest_of_not_keystreaming (f := .encryptByte) (ds := p) (fun _ _ => rfl) hph
  obtain ⟨v, hv, hvframe⟩ :=
    byteRequest_of_not_keystreaming (f := .decryptByte) (ds := p) (fun _ _ => rfl) hph
  refine ⟨t, u, v, (keystreamBytes_eq n s).trans ht, hu, hv, ?_⟩
  simp only [List.forall_mem_cons, List.not_mem_nil, false_imp_iff, implies_true, and_true]
  exact ⟨htframe, huframe, hvframe⟩

/-- Settles O46: the operations differ only in the command that carries each byte. -/
theorem encryptZerosIsKeystream : Obligations.EncryptZerosIsKeystream := by
  refine ⟨fun s n _ => ?_, fun s b _ => ?_⟩
  · rw [keystreamBytes_eq]
    exact byteRequest_congr (f := .encryptByte) s (fun _ _ => rfl) (byteOperand_ksByte_of_zeros n)
  · exact byteRequest_congr (f := .decryptByte) (g := .encryptByte) s (fun _ _ => rfl) (fun _ _ => rfl)

end Sys2Proof.Machine
end

section
/-! PROOF. The steps that accept nothing (R193, R203). -/

namespace Sys2Proof.Machine

/-- A step with no reset next, and no command that an idle engine could accept, is the sequencer's, and takes at
most a quiet step off the port. -/
theorem step_of_not_accepting (s : State) (hreset : ¬ Resets s)
    (hhold : ∀ w rest, s.hostIn = .command w :: rest → s.pend ≠ .none) :
    step s = .next (engineStep { s with hostIn := afterBusyStep s.hostIn }) := by
  have hports : ∀ ins, s.hostIn = ins →
      step { s with hostIn := ins } = .next { engineStep s with hostIn := afterBusyStep ins } := by
    rintro (- | ⟨_ | w | _, rest⟩) hport
    case nil => exact congrArg Host.Outcome.next (engineStep_withPort s [])
    case cons.quiet => exact step_quiet s rest
    case cons.command => exact step_command_busy s w rest (hhold w rest hport)
    case cons.reset => exact absurd ⟨rest, hport⟩ hreset
  rw [engineStep_withPort]
  exact hports s.hostIn rfl

/-- An idle engine with no input at the port that it reacts to keeps all its state, and the port moves on. -/
theorem step_idle_of_not_accepting (s : State) (hidle : s.pend = .none) (hreset : ¬ Resets s)
    (hnone : ∀ w rest, s.hostIn ≠ .command w :: rest) :
    step s = .next { s with hostIn := afterBusyStep s.hostIn } := by
  rw [step_of_not_accepting s hreset fun w rest hport => absurd hport (hnone w rest),
    engineStep_withPort, engineStep_idle s hidle]

/-- Settles O25: neither kind of step accepts anything, and the sequencer of an idle engine does nothing. -/
theorem stepWithoutAcceptance : Obligations.StepWithoutAcceptance := by
  refine ⟨fun s hbusy hreset => ?busy, fun s hidle hport => ?empty, fun s rest hidle hport => ?quiet⟩
  case busy => exact step_of_not_accepting s hreset fun _ _ _ => hbusy
  case empty =>
    have hstep := step_idle_of_not_accepting s hidle (by simp [Resets, hport]) (by simp [hport])
    have hsame : afterBusyStep s.hostIn = s.hostIn := by rw [hport]; rfl
    rwa [hsame] at hstep
  case quiet =>
    have hstep := step_idle_of_not_accepting s hidle (by simp [Resets, hport]) (by simp [hport])
    have hrest : afterBusyStep s.hostIn = rest := by rw [hport]; rfl
    rwa [hrest] at hstep

end Sys2Proof.Machine
end

section
/-! PROOF. The reset input (R200, R201) and the hold of a command presented to a busy engine (R203). -/

namespace Sys2Proof.Machine

/-- Settles O30: the step is the reset's, and it takes only the reset itself off the port. -/
theorem resetInputAbandons : Obligations.ResetInputAbandons := by
  intro s rest hport
  obtain ⟨t, hstep⟩ := stepNeverStops s
  rw [hstep, step_of_resets ⟨rest, hport⟩ hstep, applyReset, dropInput_hostIn, dropInput_hostOut, hport,
    List.tail_cons]

/-! ### The hold of a busy engine -/

/-- A busy engine accepts no command (R120, R203). -/
theorem exec_busy (i : Instr) {s : State} (h : s.pend ≠ .none) : exec i s = .next s := by
  cases i <;> exact held_busy s _ h

/-- The sequencer leaves what waits at the port. -/
theorem engineSteps_hostIn (k : Nat) (s : State) : (engineSteps k s).hostIn = s.hostIn := by
  induction k generalizing s with
  | zero => rfl
  | succ k ih => rw [engineSteps, ih, engineStep_hostIn]

/-- The sequencer's operation in progress lasts exactly `k` engine steps: PEND stays until then, and the engine
is idle after. -/
def EndsIn (s : State) (k : Nat) : Prop :=
  (∀ j, j < k → (engineSteps j s).pend = s.pend) ∧ (engineSteps k s).pend = .none

/-- A warm-up ends when WARM_COUNT reaches 256 (R129). -/
theorem endsIn_of_warmup {s : State} (hp : s.pend = .warmup) (hroom : s.warmCount.toNat < 256) :
    EndsIn s (256 - s.warmCount.toNat) := by
  refine ⟨fun j hj => ?_, ?_⟩
  · rw [hp]
    exact engineSteps_pend_of_warmup hp (by omega)
  · obtain ⟨k, hk⟩ : ∃ k, 256 - s.warmCount.toNat = k + 1 := Nat.exists_eq_add_one.2 (by omega)
    rw [hk, engineSteps_warmup k s hp (by omega), warmupComplete_pend]

/-- A byte command ends when BIT_COUNT reaches 8 (R151). -/
theorem endsIn_of_byte {s : State} (hp : s.pend = .byte) (hroom : s.bitCount.toNat < 8) :
    EndsIn s (8 - s.bitCount.toNat) := by
  refine ⟨fun j hj => ?_, ?_⟩
  · rw [hp]
    exact engineSteps_pend_of_byte hp (by omega)
  · obtain ⟨k, hk⟩ : ∃ k, 8 - s.bitCount.toNat = k + 1 := Nat.exists_eq_add_one.2 (by omega)
    rw [hk, engineSteps_byte k s hp (by omega), byteComplete_pend]

/-- Every operation in progress ends: R36 (g) leaves room in its counter, which bounds the steps still to do. -/
theorem Inv.exists_endsIn {s : State} (hinv : Inv s) (hbusy : s.pend ≠ .none) :
    ∃ k, 1 ≤ k ∧ k ≤ 256 ∧ (s.pend = .byte → k ≤ 8) ∧ EndsIn s k := by
  obtain hp | hp | hp := pend_cases s.pend
  · exact absurd hp hbusy
  · have hroom := hinv.warmupRoom hp
    exact ⟨_, by omega, by omega, by simp [hp], endsIn_of_warmup hp hroom⟩
  · have hroom := hinv.byteRoom hp
    exact ⟨_, by omega, by omega, fun _ => by omega, endsIn_of_byte hp hroom⟩

/-- While a command waits and the operation in progress lasts, the machine's run is the sequencer's. -/
theorem EndsIn.run_eq {s : State} {j k : Nat} (hend : EndsIn s k) (hbusy : s.pend ≠ .none)
    (hport : PortHolds s) (hj : j ≤ k) : core.run j s = .next (engineSteps j s) :=
  run_eq_engineSteps_of_busy hport fun i hi => by rwa [hend.1 i (Nat.lt_of_lt_of_le hi hj)]

/-- Settles O26: the run is the sequencer's until the operation ends, the waiting word stays at the port, and the
idle engine then accepts it. -/
theorem busyHoldEnds : Obligations.BusyHoldEnds := by
  refine ⟨fun s i hbusy => exec_busy i hbusy, fun s w rest hinv hbusy hport => ?_⟩
  obtain ⟨k, hpos, hmax, hbyte, hend⟩ := hinv.exists_endsIn hbusy
  have hrun : ∀ j, j ≤ k → core.run j s = .next (engineSteps j s) := fun j =>
    hend.run_eq hbusy (.inr ⟨w, rest, hport⟩)
  have hhold := engineSteps_hostIn k s
  refine ⟨k, engineSteps k s, hpos, hmax, hbyte, fun j hj => ?held, hrun k le_rfl, hend.2, hhold, ?accept⟩
  case held => exact ⟨_, hrun j hj.le, hend.1 j hj, engineSteps_hostIn j s⟩
  case accept => exact (stepRunsDecodedCommand _ w rest hend.2 (hhold.trans hport)).1

end Sys2Proof.Machine
end
